-- ==== Sys2Proof/Word.lean ====
section
/-! DEFINITION. The words of the machine: 32-bit words, bytes, texts and instruction words (`spec/00_scope.md` R7, R8). -/

namespace Sys2Proof

/-- A 32-bit pattern (`b32`): an integer register, a float register, a data cell, the program
counter or an instruction field, R7, R8. Its signed reading `s32` is `BitVec.toInt`, its unsigned
reading `u32` is `BitVec.toNat`. -/
abbrev Word := BitVec 32

/-- A character of a text and an element of the two I/O streams, R35 (an 8-bit byte). -/
abbrev Byte := BitVec 8

/-- A text value, a sequence of characters with no terminator, R35. -/
abbrev Text := List Byte

/-- One word of the instruction memory, R90. -/
abbrev InstrWord := BitVec 128

/-- `wrap32(z)` of R8: the 32-bit word congruent to `z` modulo 2^32. -/
abbrev wrap32 (z : Int) : Word := BitVec.ofInt 32 z

end Sys2Proof
end

