-- ==== Sys2Proof/Syntax.lean ====
section
/-! DEFINITION. The 41 instructions (`spec/30_encoding.md` R93, R97, R101, R105). -/

namespace Sys2Proof

/-- An instruction as the quadruple `(op, o1, o2, o3)` of R90: one constructor for each opcode, and
in each the three operand fields as they stand in the word. Fields beyond the opcode's arity are
named `u1`, `u2`, `u3`: no handler reads them (R96), but fault entry records them (R38), so they
are kept. -/
inductive Instr where
  /-- `HALT`, R135, format Z: stop the run normally. -/
  | halt (u1 u2 u3 : Word)
  /-- `NOOP`, R136, format Z: only advance `pc`. -/
  | noop (u1 u2 u3 : Word)
  /-- `ADDi`, R141, format R3i: `x[d]` from `x[a] + x[b]`. -/
  | addi (d a b : Word)
  /-- `ADDf`, R152, format R3f: `f[d]` from `f[a] + f[b]`. -/
  | addf (d a b : Word)
  /-- `SUBi`, R142, format R3i: `x[d]` from `x[a] - x[b]`. -/
  | subi (d a b : Word)
  /-- `SUBf`, R153, format R3f: `f[d]` from `f[a] - f[b]`. -/
  | subf (d a b : Word)
  /-- `MULi`, R143, format R3i: `x[d]` from `x[a] * x[b]`. -/
  | muli (d a b : Word)
  /-- `MULf`, R154, format R3f: `f[d]` from `f[a] * f[b]`. -/
  | mulf (d a b : Word)
  /-- `DIVi`, R144, format R3i: `x[d]` from `x[a] / x[b]`. -/
  | divi (d a b : Word)
  /-- `DIVf`, R155, format R3f: `f[d]` from `f[a] / f[b]`. -/
  | divf (d a b : Word)
  /-- `MODi`, R145, format R3i: `x[d]` from `x[a] mod x[b]`. -/
  | modi (d a b : Word)
  /-- `MODf`, R156, format R3f: `f[d]` from `f[a] mod f[b]`. -/
  | modf (d a b : Word)
  /-- `EQUi`, R174, format R3i: `x[d]` from `x[a] = x[b]`. -/
  | equi (d a b : Word)
  /-- `EQUf`, R180, format C3f: `x[d]` from `f[a] = f[b]`. -/
  | equf (d a b : Word)
  /-- `EQUs`, R186, format C3s: `x[d]` from `ST[j] = ST[k]`. -/
  | equs (d j k : Word)
  /-- `NEQi`, R175, format R3i: `x[d]` from `x[a] ≠ x[b]`. -/
  | neqi (d a b : Word)
  /-- `NEQf`, R181, format C3f: `x[d]` from `f[a] ≠ f[b]`. -/
  | neqf (d a b : Word)
  /-- `NEQs`, R187, format C3s: `x[d]` from `ST[j] ≠ ST[k]`. -/
  | neqs (d j k : Word)
  /-- `LTHi`, R176, format R3i: `x[d]` from `x[a] < x[b]`. -/
  | lthi (d a b : Word)
  /-- `LTHf`, R182, format C3f: `x[d]` from `f[a] < f[b]`. -/
  | lthf (d a b : Word)
  /-- `LTHs`, R188, format C3s: `x[d]` from `ST[j] < ST[k]`. -/
  | lths (d j k : Word)
  /-- `LTEi`, R177, format R3i: `x[d]` from `x[a] ≤ x[b]`. -/
  | ltei (d a b : Word)
  /-- `LTEf`, R183, format C3f: `x[d]` from `f[a] ≤ f[b]`. -/
  | ltef (d a b : Word)
  /-- `LTEs`, R189, format C3s: `x[d]` from `ST[j] ≤ ST[k]`. -/
  | ltes (d j k : Word)
  /-- `GTHi`, R178, format R3i: `x[d]` from `x[a] > x[b]`. -/
  | gthi (d a b : Word)
  /-- `GTHf`, R184, format C3f: `x[d]` from `f[a] > f[b]`. -/
  | gthf (d a b : Word)
  /-- `GTHs`, R190, format C3s: `x[d]` from `ST[j] > ST[k]`. -/
  | gths (d j k : Word)
  /-- `GTEi`, R179, format R3i: `x[d]` from `x[a] ≥ x[b]`. -/
  | gtei (d a b : Word)
  /-- `GTEf`, R185, format C3f: `x[d]` from `f[a] ≥ f[b]`. -/
  | gtef (d a b : Word)
  /-- `GTEs`, R191, format C3s: `x[d]` from `ST[j] ≥ ST[k]`. -/
  | gtes (d j k : Word)
  /-- `JUMP`, R201, format J: `pc` becomes the absolute address `addr`. -/
  | jump (addr u2 u3 : Word)
  /-- `BOTb`, R202, format B: branch by `off` when `x[r]` is 1. -/
  | botb (r off u3 : Word)
  /-- `BOFb`, R203, format B: branch by `off` when `x[r]` is 0. -/
  | bofb (r off u3 : Word)
  /-- `LDWi`, R221, format LA: `x[d]` from data cell `addr`. -/
  | ldwi (d addr u3 : Word)
  /-- `LDWf`, R222, format LA: `f[d]` from data cell `addr`. -/
  | ldwf (d addr u3 : Word)
  /-- `LDIi`, R223, format LI: `x[d]` from the constant `c`. -/
  | ldii (d c u3 : Word)
  /-- `LDIf`, R224, format LI: `f[d]` from the pattern `c`. -/
  | ldif (d c u3 : Word)
  /-- `STWi`, R225, format SA: data cell `addr` from `x[r]`. -/
  | stwi (addr r u3 : Word)
  /-- `STWf`, R226, format SA: data cell `addr` from `f[r]`. -/
  | stwf (addr r u3 : Word)
  /-- `SSTR`, R240, format P: string slot `k` from constant-pool entry `k`. -/
  | sstr (k u2 u3 : Word)
  /-- `CALL`, R250, format SC: service `code` on the register or slot `x`. -/
  | call (code x u3 : Word)
  deriving DecidableEq, Repr

/-- The four raw fields of an instruction word, R90. -/
structure Fields where
  /-- The opcode number, read as `u32`. -/
  op : Word
  /-- The first operand field. -/
  o1 : Word
  /-- The second operand field. -/
  o2 : Word
  /-- The third operand field. -/
  o3 : Word
  deriving DecidableEq, Repr

end Sys2Proof
end

