-- ==== Sys2Proof/Decode.lean ====
section
/-! DEFINITION. The decoder and the encoder (`spec/30_encoding.md` R90, R91, R100 to R104). -/

namespace Sys2Proof

/-- Why a word is no instruction. The one decoder fault is `InvalidOpcode` (R98, R102). -/
inductive DecodeReject where
  /-- The opcode field is outside the closed set, R102. The step takes the fault R281. -/
  | invalidOpcode (op : Word)
  deriving DecidableEq, Repr

/-- Field extraction, R90 and R91: `op` from bits 127 to 96, `o1` from 95 to 64, `o2` from 63 to
32, `o3` from 31 to 0. -/
def splitWord (w : InstrWord) : Fields :=
  ⟨w.extractLsb' 96 32, w.extractLsb' 64 32, w.extractLsb' 32 32, w.extractLsb' 0 32⟩

/-- The word of four fields, `op` in the high bits, R90. -/
def joinFields (q : Fields) : InstrWord :=
  q.op ++ q.o1 ++ q.o2 ++ q.o3

/-- The opcode map read from number to instruction, R101; every number from 41 up is rejected,
R102. -/
def instrOfFields (q : Fields) : Except DecodeReject Instr :=
  match q.op.toNat with
  | 0 => .ok (.halt q.o1 q.o2 q.o3)
  | 1 => .ok (.noop q.o1 q.o2 q.o3)
  | 2 => .ok (.addi q.o1 q.o2 q.o3)
  | 3 => .ok (.addf q.o1 q.o2 q.o3)
  | 4 => .ok (.subi q.o1 q.o2 q.o3)
  | 5 => .ok (.subf q.o1 q.o2 q.o3)
  | 6 => .ok (.muli q.o1 q.o2 q.o3)
  | 7 => .ok (.mulf q.o1 q.o2 q.o3)
  | 8 => .ok (.divi q.o1 q.o2 q.o3)
  | 9 => .ok (.divf q.o1 q.o2 q.o3)
  | 10 => .ok (.modi q.o1 q.o2 q.o3)
  | 11 => .ok (.modf q.o1 q.o2 q.o3)
  | 12 => .ok (.equi q.o1 q.o2 q.o3)
  | 13 => .ok (.equf q.o1 q.o2 q.o3)
  | 14 => .ok (.equs q.o1 q.o2 q.o3)
  | 15 => .ok (.neqi q.o1 q.o2 q.o3)
  | 16 => .ok (.neqf q.o1 q.o2 q.o3)
  | 17 => .ok (.neqs q.o1 q.o2 q.o3)
  | 18 => .ok (.lthi q.o1 q.o2 q.o3)
  | 19 => .ok (.lthf q.o1 q.o2 q.o3)
  | 20 => .ok (.lths q.o1 q.o2 q.o3)
  | 21 => .ok (.ltei q.o1 q.o2 q.o3)
  | 22 => .ok (.ltef q.o1 q.o2 q.o3)
  | 23 => .ok (.ltes q.o1 q.o2 q.o3)
  | 24 => .ok (.gthi q.o1 q.o2 q.o3)
  | 25 => .ok (.gthf q.o1 q.o2 q.o3)
  | 26 => .ok (.gths q.o1 q.o2 q.o3)
  | 27 => .ok (.gtei q.o1 q.o2 q.o3)
  | 28 => .ok (.gtef q.o1 q.o2 q.o3)
  | 29 => .ok (.gtes q.o1 q.o2 q.o3)
  | 30 => .ok (.jump q.o1 q.o2 q.o3)
  | 31 => .ok (.botb q.o1 q.o2 q.o3)
  | 32 => .ok (.bofb q.o1 q.o2 q.o3)
  | 33 => .ok (.ldwi q.o1 q.o2 q.o3)
  | 34 => .ok (.ldwf q.o1 q.o2 q.o3)
  | 35 => .ok (.ldii q.o1 q.o2 q.o3)
  | 36 => .ok (.ldif q.o1 q.o2 q.o3)
  | 37 => .ok (.stwi q.o1 q.o2 q.o3)
  | 38 => .ok (.stwf q.o1 q.o2 q.o3)
  | 39 => .ok (.sstr q.o1 q.o2 q.o3)
  | 40 => .ok (.call q.o1 q.o2 q.o3)
  | _ => .error (.invalidOpcode q.op)

/-- The decoder, R123: split the word and select the instruction by `op` alone (R101). -/
def decode (w : InstrWord) : Except DecodeReject Instr :=
  instrOfFields (splitWord w)

/-- The opcode map read from instruction to number, R101, with the raw operand fields. -/
def Instr.fields : Instr → Fields
  | .halt u1 u2 u3 => ⟨0, u1, u2, u3⟩
  | .noop u1 u2 u3 => ⟨1, u1, u2, u3⟩
  | .addi d a b => ⟨2, d, a, b⟩
  | .addf d a b => ⟨3, d, a, b⟩
  | .subi d a b => ⟨4, d, a, b⟩
  | .subf d a b => ⟨5, d, a, b⟩
  | .muli d a b => ⟨6, d, a, b⟩
  | .mulf d a b => ⟨7, d, a, b⟩
  | .divi d a b => ⟨8, d, a, b⟩
  | .divf d a b => ⟨9, d, a, b⟩
  | .modi d a b => ⟨10, d, a, b⟩
  | .modf d a b => ⟨11, d, a, b⟩
  | .equi d a b => ⟨12, d, a, b⟩
  | .equf d a b => ⟨13, d, a, b⟩
  | .equs d j k => ⟨14, d, j, k⟩
  | .neqi d a b => ⟨15, d, a, b⟩
  | .neqf d a b => ⟨16, d, a, b⟩
  | .neqs d j k => ⟨17, d, j, k⟩
  | .lthi d a b => ⟨18, d, a, b⟩
  | .lthf d a b => ⟨19, d, a, b⟩
  | .lths d j k => ⟨20, d, j, k⟩
  | .ltei d a b => ⟨21, d, a, b⟩
  | .ltef d a b => ⟨22, d, a, b⟩
  | .ltes d j k => ⟨23, d, j, k⟩
  | .gthi d a b => ⟨24, d, a, b⟩
  | .gthf d a b => ⟨25, d, a, b⟩
  | .gths d j k => ⟨26, d, j, k⟩
  | .gtei d a b => ⟨27, d, a, b⟩
  | .gtef d a b => ⟨28, d, a, b⟩
  | .gtes d j k => ⟨29, d, j, k⟩
  | .jump addr u2 u3 => ⟨30, addr, u2, u3⟩
  | .botb r off u3 => ⟨31, r, off, u3⟩
  | .bofb r off u3 => ⟨32, r, off, u3⟩
  | .ldwi d addr u3 => ⟨33, d, addr, u3⟩
  | .ldwf d addr u3 => ⟨34, d, addr, u3⟩
  | .ldii d c u3 => ⟨35, d, c, u3⟩
  | .ldif d c u3 => ⟨36, d, c, u3⟩
  | .stwi addr r u3 => ⟨37, addr, r, u3⟩
  | .stwf addr r u3 => ⟨38, addr, r, u3⟩
  | .sstr k u2 u3 => ⟨39, k, u2, u3⟩
  | .call code x u3 => ⟨40, code, x, u3⟩

/-- The encoder: the instruction word that carries the quadruple, R90. -/
def encode (i : Instr) : InstrWord :=
  joinFields i.fields

/-- The instruction the decoder reads from a table word. `spec/opcode_table.json` gives a row as one
128-bit number with `op` in bits 127 to 96, which is the instruction word itself. -/
def decodeTableWord (nbits w : Nat) : Option Instr :=
  match decode (BitVec.ofNat 128 (w % 2 ^ nbits)) with
  | .ok i => some i
  | .error _ => none

end Sys2Proof
end

