-- ==== Sys2Proof/Config.lean ====
section
/-! DEFINITION. The parameters of the machine: the fixed ones of `spec/00_scope.md` R6 and the open
ones of R7. An open parameter is an opaque constant: nothing can be proved of its value beyond the
bound its use below builds in. -/

namespace Sys2Proof.Config

/-- `INSTR_CAPACITY`, R6: the number of instruction words. -/
abbrev instrCapacity : Nat := 1024

/-- `DATA_CAPACITY`, R6: the number of data cells. -/
abbrev dataCapacity : Nat := 1024

/-- `MAX_TEXT_LEN`, R6: the largest number of characters of a text. -/
abbrev maxTextLen : Nat := 128

/-- `NUM_SYSCALL_CODES`, R6: service codes are 0 to 7. -/
abbrev numSyscallCodes : Nat := 8

/-- One less than `STR_CAPACITY`, which R7 leaves open as any natural number of at least 1. -/
opaque strCapacityPred : Nat

/-- `STR_CAPACITY`, R7 and R34: the number of slots of the string table after reset. -/
def strCapacity : Nat := strCapacityPred + 1

/-- What each NaN result leaves open (R158, `NAN_RESULT`): draw number `n` gives the sign bit and
the 22 fraction bits below bit 22. -/
opaque nanDraw : Nat → BitVec 23

/-- The text a float is rendered as before it is cut to a text's bound; see `renderFloat`. -/
opaque renderFloatRaw : Word → Text

/-- `RENDER_FLOAT`, R260: a function from binary32 patterns to texts of which nothing is known but
that it returns a text, hence at most 128 characters (R8). -/
def renderFloat (v : Word) : Text := (renderFloatRaw v).take maxTextLen

end Sys2Proof.Config
end

