-- ==== Sys2Proof/Machine/State.lean ====
section
/-! DEFINITION. The state of the machine and its value after reset (`spec/10_state.md`). -/

namespace Sys2Proof.Machine

/-- The ten kinds of fault, R280. Each is taken as the entry of R293, which is a next state. -/
inductive FaultKind where
  /-- Code 1, R281: the opcode field is 41 or more. -/
  | invalidOpcode
  /-- Code 2, R282: a register index outside 0 to 31. -/
  | operandOutOfRange
  /-- Code 3, R283: a fetch with `pc` outside 0 to 1023. -/
  | instructionAddressOutOfRange
  /-- Code 4, R284: a data address outside 0 to 1023. -/
  | dataAddressOutOfRange
  /-- Code 5, R285: a slot outside the string table, or an index outside the pool. -/
  | stringIndexOutOfRange
  /-- Code 6, R286: a text longer than 128 characters is about to be stored. -/
  | stringTooLong
  /-- Code 7, R287: an integer divisor is 0. -/
  | divisionByZero
  /-- Code 8, R288: a register read as a boolean holds neither 0 nor 1. -/
  | invalidBooleanValue
  /-- Code 9, R289: a service code outside 0 to 7. -/
  | invalidSyscall
  /-- Code 10, R290: a token is not of the requested type, or the input has ended. -/
  | ioParseError
  deriving DecidableEq, Repr

/-- The four run states, R37. -/
inductive RunState where
  /-- Code 0: after reset, before `start`. -/
  | loaded
  /-- Code 1: the only state in which instructions execute. -/
  | running
  /-- Code 2: ended by `HALT`. -/
  | halted
  /-- Code 3: ended by a fault. -/
  | faulted
  deriving DecidableEq, Repr

/-- The fault record `FR`, R38. -/
structure FaultRecord where
  /-- `FR.kind`: the fault taken, none when no fault has been recorded. -/
  kind : Option FaultKind
  /-- `FR.pc`: the value of `pc` at the fault. -/
  pc : Word
  /-- `FR.valid_instr`: whether an instruction word was fetched. -/
  validInstr : Bool
  /-- `FR.op`, `FR.o1`, `FR.o2`, `FR.o3`: the raw fields of the fetched word, 0 if there is none. -/
  fields : Fields
  deriving DecidableEq, Repr

/-- The cleared fault record of R46. -/
def FaultRecord.clear : FaultRecord := ⟨none, 0, false, ⟨0, 0, 0, 0⟩⟩

/-- A memory of `w`-bit units: the pairs of address and contents, addresses strictly rising, no
unit equal to zero listed. An unlisted address reads as zero, the reset contents R46 gives. -/
abbrev Memory (w : Nat) := List (Nat × BitVec w)

/-- The whole state of one engine instance and of the two streams at its boundary. -/
structure State where
  /-- The register file of R27: words 0 to 31 are `x[0..31]`, words 32 to 63 are `f[0..31]`. -/
  regs : Vector Word 64
  /-- `pc`, R28. -/
  pc : Word
  /-- Instruction memory `IM`, R32. -/
  instrMem : Memory 128
  /-- Data memory `DM`, R33. -/
  dataMem : Memory 32
  /-- String table `ST`, R34: one text for each slot, so its length is the number of slots. -/
  strTable : List Text
  /-- Constant pool `POOL`, R36: its length is `POOL_SIZE`. -/
  pool : List Text
  /-- Run state `RUN`, R37. -/
  run : RunState
  /-- Fault record `FR`, R38. -/
  fr : FaultRecord
  /-- The bytes the environment has supplied on `IN` so far, R44. -/
  inBytes : List Byte
  /-- The read position of `IN`: how many of these bytes have been consumed, R44. -/
  inPos : Nat
  /-- Whether the environment has marked the end of `IN`, R44. -/
  inEnded : Bool
  /-- The bytes appended to `OUT` so far, R45. -/
  out : List Byte
  /-- The model's own field (log entry 3): how many NaN results have been drawn, R158. -/
  nanDraws : Nat
  deriving DecidableEq, Repr

/-- The state after reset and before load, R46 and R320 to R322. The contents of `IN` and the draw
counter are the model's choice (log entries 10 and 3). -/
def State.reset : State where
  regs := Vector.replicate 64 0
  pc := 0
  instrMem := []
  dataMem := []
  strTable := List.replicate Config.strCapacity []
  pool := []
  run := .loaded
  fr := FaultRecord.clear
  inBytes := []
  inPos := 0
  inEnded := false
  out := []
  nanDraws := 0

/-- Reasons a step ends with no next state. There is none: each of the ten faults of R280 is taken
as the spec's own fault entry (R293), which leaves a next state with `RUN = Faulted` (log entry 9).
Safe: no behaviour of the hardware is cut off. -/
inductive Fault where
  deriving DecidableEq, Repr

/-- Reasons the model gives no answer. -/
inductive Refusal where
  /-- Raised by an arm of `exec` that has no meaning yet; safe. No arm raises it. -/
  | notModelled (mnemonic : String)
  /-- Raised by a host action that writes `IM`, `DM`, `ST` or `POOL` outside Loaded, which R326
  assumes never to happen; safe. No instruction raises it. -/
  | hostWriteNotLoaded
  /-- Raised by a host action that loads outside the memories, or a text longer than R323 allows,
  which cannot be loaded (R324); safe. No instruction raises it. -/
  | hostLoadOutOfBounds
  /-- Raised by an append to `IN` after its end was marked, which R44 says does not happen; safe.
  No instruction raises it. -/
  | inputAfterEnd
  deriving DecidableEq, Repr

/-- The outcome of an instruction or of a step. -/
abbrev Result := Host.Outcome State Fault Refusal

end Sys2Proof.Machine
end

