-- ==== Sys2Proof/Machine/Ops.lean ====
section
/-! DEFINITION. The named operations over memory, registers, texts, streams and the program
counter, and fault entry (`spec/00_scope.md` R9 to R14, `spec/60_exceptions.md` R293). -/

namespace Sys2Proof.Machine

/-! ### Memory -/

/-- The contents of unit `a`; an unlisted unit holds zero, R46. -/
def Memory.read {w : Nat} (a : Nat) : Memory w → BitVec w
  | [] => 0
  | (b, u) :: m => if a = b then u else Memory.read a m

/-- Replace unit `a` by `v`, keeping the canonical form: a zero is not listed. -/
def Memory.write {w : Nat} (a : Nat) (v : BitVec w) : Memory w → Memory w
  | [] => if v = 0 then [] else [(a, v)]
  | (b, u) :: m =>
    if a < b then (if v = 0 then (b, u) :: m else (a, v) :: (b, u) :: m)
    else if a = b then (if v = 0 then m else (a, v) :: m)
    else (b, u) :: Memory.write a v m

/-- Every listed address is at least `lo` and below `cap`, the addresses strictly rise and no listed
unit is zero. -/
def Memory.wfFrom {w : Nat} (lo cap : Nat) : Memory w → Bool
  | [] => true
  | (a, v) :: m => decide (lo ≤ a) && decide (a < cap) && decide (v ≠ 0) && Memory.wfFrom (a + 1) cap m

/-- The canonical form of a memory of `cap` units. -/
def Memory.wf {w : Nat} (cap : Nat) (m : Memory w) : Bool := Memory.wfFrom 0 cap m

/-- `DM[a]`, the access of R10 and R60: both typed ports read these 32 bits (R62). -/
def State.readData (s : State) (a : Nat) : Word := Memory.read a s.dataMem

/-- `MemWrite(a, 1, v)`, R10: replace the whole cell. -/
def State.writeData (s : State) (a : Nat) (v : Word) : State :=
  { s with dataMem := Memory.write a v s.dataMem }

/-- `IM[a]`, R32. -/
def State.readInstr (s : State) (a : Nat) : InstrWord := Memory.read a s.instrMem

/-- The loader's write of an instruction word, R323. No instruction performs it (R70). -/
def State.writeInstr (s : State) (a : Nat) (w : InstrWord) : State :=
  { s with instrMem := Memory.write a w s.instrMem }

/-! ### Registers -/

/-- `x[i]`, R9: word `i` of the register file (R27). -/
def State.readX (s : State) (i : Fin 32) : Word := s.regs[i.val]'(by omega)

/-- `f[i]`, R9: word `32 + i` of the register file (R27), as raw bits (R23). -/
def State.readF (s : State) (i : Fin 32) : Word := s.regs[32 + i.val]'(by omega)

/-- `x[i] <- v`, R9. No register is hardwired (R21). -/
def State.writeX (s : State) (i : Fin 32) (v : Word) : State :=
  { s with regs := s.regs.set i.val v (by omega) }

/-- `f[i] <- v`, R9. -/
def State.writeF (s : State) (i : Fin 32) (v : Word) : State :=
  { s with regs := s.regs.set (32 + i.val) v (by omega) }

/-! ### Program counter -/

/-- `pc <- t`, R9, with no range check (R125). -/
def State.setPc (s : State) (t : Word) : State := { s with pc := t }

/-- `pc <- pc + 1`, the sequential advance of R29. -/
def State.advance (s : State) : State := s.setPc (s.pc + 1)

/-! ### Fault entry (there is no return from a fault: R296) -/

/-- Fault entry, R293: record the kind, `pc` and the raw fields of the fetched word (zeros when no
word was fetched), and enter Faulted. Nothing else changes. -/
def State.takeFault (s : State) (k : FaultKind) (q : Option Fields) : State :=
  { s with
    fr := ⟨some k, s.pc, q.isSome, q.getD ⟨0, 0, 0, 0⟩⟩
    run := .faulted }

/-- `raise K` (R11) from the handler of the fetched instruction `i`. -/
def State.raise (s : State) (k : FaultKind) (i : Instr) : State := s.takeFault k (some i.fields)

/-- `RUN <- Halted`, R135. -/
def State.halt (s : State) : State := { s with run := .halted }

/-! ### String table -/

/-- `ST[k] <- t`: replace the whole slot, R76. -/
def State.writeSlot (s : State) (k : Nat) (t : Text) : State :=
  { s with strTable := s.strTable.set k t }

/-! ### Streams -/

/-- The bytes of `IN` not yet consumed, R44. -/
def State.pending (s : State) : List Byte := s.inBytes.drop s.inPos

/-- Advance the read position of `IN` by `n` bytes, R44. -/
def State.consume (s : State) (n : Nat) : State := { s with inPos := s.inPos + n }

/-- `emit(t)`, R252: append the bytes of `t` and one newline byte `0x0A` to `OUT`. -/
def State.emit (s : State) (t : Text) : State := { s with out := s.out ++ t ++ [0x0A] }

/-- The six whitespace bytes, R254. -/
def isSpace (c : Byte) : Bool :=
  c == 0x20 || c == 0x09 || c == 0x0A || c == 0x0B || c == 0x0C || c == 0x0D

/-- What `next_token()` finds, R253. -/
inductive TokenRead where
  /-- Neither a whole token nor the end of the stream has arrived: the read waits, R267. -/
  | blocked
  /-- The stream has ended and only whitespace remained; so many bytes are consumed. -/
  | ended (consumed : Nat)
  /-- A whole token; so many bytes, the leading whitespace and the token, are consumed. -/
  | token (t : Text) (consumed : Nat)
  deriving DecidableEq, Repr

/-- `next_token()` over the unconsumed bytes, R253: skip whitespace, then take the maximal run of
other bytes, ended by a whitespace byte (not consumed) or by the end of the stream. -/
def scanToken (ended : Bool) (bytes : List Byte) : TokenRead :=
  let spaces := bytes.takeWhile isSpace
  let rest := bytes.dropWhile isSpace
  let tok := rest.takeWhile fun c => !isSpace c
  let after := rest.dropWhile fun c => !isSpace c
  if tok = [] then (if ended then .ended spaces.length else .blocked)
  else if after = [] ∧ ended = false then .blocked
  else .token tok (spaces.length + tok.length)

/-- `next_token()` on the stream `IN` of the state, R253. -/
def State.nextToken (s : State) : TokenRead := scanToken s.inEnded s.pending

end Sys2Proof.Machine
end

