-- ==== Sys2Proof/Machine/Operands.lean ====
section
/-! DEFINITION. The operand checks (`spec/00_scope.md` R9) and the operand shapes of the formats
(`spec/30_encoding.md` R93), with the order of checks of `spec/60_exceptions.md` R292. -/

namespace Sys2Proof.Machine

/-- The range test of R9: `0 <= o < n` on the operand as a signed `i32`; the index if it holds. -/
def index? (n : Nat) (o : Word) : Option (Fin n) :=
  if h : 0 ≤ o.toInt ∧ o.toInt < n then some ⟨o.toInt.toNat, by omega⟩ else none

/-- `chk_xreg` and `chk_freg`, R9. -/
def reg? (o : Word) : Option (Fin 32) := index? 32 o

/-- `chk_data`, R9. -/
def cell? (o : Word) : Option (Fin Config.dataCapacity) := index? Config.dataCapacity o

/-- `chk_str` of R9 on a table of texts, with the text found: the test is `0 <= o < size` on the
operand as a signed `i32`. It serves the string table (R76) and the constant pool (R77). -/
def text? (table : List Text) (o : Word) : Option Text :=
  if 0 ≤ o.toInt then table[o.toInt.toNat]? else none

/-- Three register fields (formats R3i, R3f, C3f): all three are checked before any is read, R140. -/
def withRegs3 (i : Instr) (o1 o2 o3 : Word) (s : State)
    (body : Fin 32 → Fin 32 → Fin 32 → State) : State :=
  match reg? o1, reg? o2, reg? o3 with
  | some d, some a, some b => body d a b
  | _, _, _ => s.raise .operandOutOfRange i

/-- One register field (formats B and LI, and the register services of `CALL`). -/
def withReg (i : Instr) (o : Word) (s : State) (body : Fin 32 → State) : State :=
  match reg? o with
  | some r => body r
  | none => s.raise .operandOutOfRange i

/-- One register field and one data address (formats LA and SA): the register first, R220. -/
def withRegCell (i : Instr) (o addr : Word) (s : State)
    (body : Fin 32 → Fin Config.dataCapacity → State) : State :=
  withReg i o s fun r =>
    match cell? addr with
    | some a => body r a
    | none => s.raise .dataAddressOutOfRange i

/-- One string-table slot (the text services of `CALL`), with the text it holds. -/
def withSlot (i : Instr) (o : Word) (s : State) (body : Text → State) : State :=
  match text? s.strTable o with
  | some t => body t
  | none => s.raise .stringIndexOutOfRange i

/-- One integer register and two slots (format C3s): the register first, then the slots, R170. -/
def withRegSlots (i : Instr) (o1 o2 o3 : Word) (s : State)
    (body : Fin 32 → Text → Text → State) : State :=
  withReg i o1 s fun d => withSlot i o2 s fun t => withSlot i o3 s fun u => body d t u

/-- The eight services of the syscall unit, R271. -/
inductive Service where
  /-- Code 0, R255. -/
  | readInt
  /-- Code 1, R256. -/
  | readFloat
  /-- Code 2, R257. -/
  | readBool
  /-- Code 3, R258. -/
  | readString
  /-- Code 4, R259. -/
  | writeInt
  /-- Code 5, R260. -/
  | writeFloat
  /-- Code 6, R261. -/
  | writeBool
  /-- Code 7, R263. -/
  | writeString
  deriving DecidableEq, Repr

/-- The fixed code table of the syscall unit, R250 and R271; any other code is none (R269). -/
def service? (code : Word) : Option Service :=
  match code.toInt with
  | 0 => some .readInt
  | 1 => some .readFloat
  | 2 => some .readBool
  | 3 => some .readString
  | 4 => some .writeInt
  | 5 => some .writeFloat
  | 6 => some .writeBool
  | 7 => some .writeString
  | _ => none

end Sys2Proof.Machine
end

