-- ==== Sys2Proof/Machine/Cycle.lean ====
section
/-! DEFINITION. Fetch and the two faults the step itself raises (`spec/40_engine_cycle.md` R122,
R123). -/

namespace Sys2Proof.Machine

/-- Fetch, R69 and R122: the word at `pc` if `0 <= pc < 1024` as a signed `i32`, with no side
effect. -/
def fetch (s : State) : Option InstrWord :=
  match index? Config.instrCapacity s.pc with
  | some a => some (s.readInstr a.val)
  | none => none

/-- The fault of a fetch outside the instruction memory, R283: there is no word to record. -/
def fetchFault (s : State) : Result := .next (s.takeFault .instructionAddressOutOfRange none)

/-- The fault of a word that is no instruction, R281: its raw fields are recorded. -/
def decodeFault (w : InstrWord) (s : State) : Result :=
  .next (s.takeFault .invalidOpcode (some (splitWord w)))

/-- What the engine does when `RUN` is not Running, R121: it fetches nothing and changes nothing. -/
def idle (s : State) : Result := .next s

end Sys2Proof.Machine
end

