-- ==== Sys2Proof/Machine/Float.lean ====
section
/-! DEFINITION. Binary32 arithmetic and comparison (`spec/42_arithmetic.md` R151,
`spec/43_relational.md` R172). Every finite binary32 number is a whole number of units of 2^-149,
so sums, products, quotients and remainders are taken exactly and rounded once. -/

namespace Sys2Proof.Machine

/-- The sign bit, bit 31 (R23). -/
def signOf (v : Word) : Bool := v.getLsbD 31

/-- The biased exponent, bits 30 to 23 (R23). -/
def expOf (v : Word) : Nat := (v.extractLsb' 23 8).toNat

/-- The fraction, bits 22 to 0 (R23). -/
def fracOf (v : Word) : Nat := (v.extractLsb' 0 23).toNat

/-- `isnan`, R12. -/
def isNaN (v : Word) : Bool := expOf v == 255 && fracOf v != 0

/-- An infinity: exponent field 255 and fraction 0. -/
def isInf (v : Word) : Bool := expOf v == 255 && fracOf v == 0

/-- A zero of either sign. -/
def isZero (v : Word) : Bool := expOf v == 0 && fracOf v == 0

/-- The magnitude of a number in units of 2^-149. For an infinity it is 2^277 units, above every
finite magnitude, which is how comparison places infinities (R172). -/
def units (v : Word) : Nat :=
  if expOf v = 0 then fracOf v else (2 ^ 23 + fracOf v) * 2 ^ (expOf v - 1)

/-- The value of a number in units of 2^-149, with its sign; both zeros are 0. -/
def signedUnits (v : Word) : Int := if signOf v then -(units v : Int) else units v

/-- The exponent and fraction bits of an infinity. -/
def infMag : Nat := 0x7F800000

/-- The word of a sign and the 31 bits of exponent and fraction. -/
def pack (neg : Bool) (mag : Nat) : Word := BitVec.ofNat 32 ((if neg then 2 ^ 31 else 0) + mag)

/-- Round-to-nearest, ties-to-even, of `num / den` units of 2^-149 (R151): the exponent and fraction
bits of the nearest binary32 magnitude, subnormals included, and of infinity on overflow. The step
is the spacing of 24-bit significands at this size, never below one unit. -/
def roundMag (num den : Nat) : Nat :=
  let k := (num / den).log2 - 23
  let spacing := den * 2 ^ k
  let q := num / spacing
  let r := num % spacing
  let m := if 2 * r < spacing then q else if spacing < 2 * r then q + 1 else q + q % 2
  min (k * 2 ^ 23 + m) infMag

/-- The result of a float operation: a NaN, whose bits R158 leaves open, or a known pattern. -/
inductive FloatResult where
  /-- Some quiet NaN. -/
  | nan
  /-- The pattern `v`, which is no NaN. -/
  | num (v : Word)
  deriving DecidableEq, Repr

/-- `fadd32`, R151. A zero sum is `-0` only when both operands are negative (both are then `-0`). -/
def fadd32 (a b : Word) : FloatResult :=
  if isNaN a || isNaN b then .nan
  else if isInf a then (if isInf b && signOf a != signOf b then .nan else .num a)
  else if isInf b then .num b
  else
    let n := signedUnits a + signedUnits b
    if n = 0 then .num (pack (signOf a && signOf b) 0)
    else .num (pack (decide (n < 0)) (roundMag n.natAbs 1))

/-- `neg`, R151: flip bit 31. -/
def fneg32 (v : Word) : Word := v ^^^ 0x80000000#32

/-- `fsub32`, R151: `fadd32(a, neg(b))` for `b` no NaN. -/
def fsub32 (a b : Word) : FloatResult :=
  if isNaN b then .nan else fadd32 a (fneg32 b)

/-- `fmul32`, R151. -/
def fmul32 (a b : Word) : FloatResult :=
  let neg := signOf a != signOf b
  if isNaN a || isNaN b then .nan
  else if isInf a || isInf b then
    (if isZero a || isZero b then .nan else .num (pack neg infMag))
  else .num (pack neg (roundMag (units a * units b) (2 ^ 149)))

/-- `fdiv32`, R151. -/
def fdiv32 (a b : Word) : FloatResult :=
  let neg := signOf a != signOf b
  if isNaN a || isNaN b then .nan
  else if isInf a then (if isInf b then .nan else .num (pack neg infMag))
  else if isInf b then .num (pack neg 0)
  else if isZero b then (if isZero a then .nan else .num (pack neg infMag))
  else .num (pack neg (roundMag (units a * 2 ^ 149) (units b)))

/-- `fmod32`, R151: the truncated remainder, exact, with the sign of `a`. -/
def fmod32 (a b : Word) : FloatResult :=
  if isNaN a || isNaN b || isInf a || isZero b then .nan
  else if isInf b then .num a
  else .num (pack (signOf a) (roundMag (units a % units b) 1))

/-- The quiet NaN of one draw (R158): bit 22 and the exponent field set, the sign and the other 22
fraction bits as drawn. -/
def quietNaN (draw : BitVec 23) : Word :=
  draw.extractLsb' 22 1 ++ 0x1FF#9 ++ draw.extractLsb' 0 22

/-- `feq32`, R172. -/
def feq32 (a b : Word) : Bool := !isNaN a && !isNaN b && signedUnits a == signedUnits b

/-- `flt32`, R172. -/
def flt32 (a b : Word) : Bool := !isNaN a && !isNaN b && decide (signedUnits a < signedUnits b)

/-- `fle32`, R172. -/
def fle32 (a b : Word) : Bool := !isNaN a && !isNaN b && decide (signedUnits a ≤ signedUnits b)

end Sys2Proof.Machine
end

