-- ==== Sys2Proof/Machine/Texts.lean ====
section
/-! DEFINITION. Text comparison, decimal rendering and the token grammars (`spec/43_relational.md`
R173, `spec/47_syscall.md` R262 and R264 to R266). -/

namespace Sys2Proof.Machine

/-- `cmp_text`, R173: -1, 0 or +1, comparing characters as unsigned 8-bit values; a proper prefix is
less. -/
def cmpText : Text → Text → Int
  | [], [] => 0
  | [], _ :: _ => -1
  | _ :: _, [] => 1
  | c :: s, d :: t =>
    if c.toNat < d.toNat then -1 else if d.toNat < c.toNat then 1 else cmpText s t

/-! ### Decimal digits -/

/-- An ASCII decimal digit, `D` of R265. -/
def isDigit (c : Byte) : Bool := decide (0x30 ≤ c.toNat) && decide (c.toNat ≤ 0x39)

/-- The number a run of digits spells. -/
def digitsVal (t : Text) : Nat := t.foldl (fun acc c => acc * 10 + (c.toNat - 0x30)) 0

/-- The decimal digits of `n` without leading zeros, for `n` of at most `fuel` digits. -/
def decDigits : Nat → Nat → Text
  | 0, _ => []
  | fuel + 1, n =>
    if n < 10 then [BitVec.ofNat 8 (0x30 + n)]
    else decDigits fuel (n / 10) ++ [BitVec.ofNat 8 (0x30 + n % 10)]

/-- `dec(v)`, R262: the canonical decimal text of a signed 32-bit value, of at most ten digits. -/
def dec (v : Word) : Text :=
  if v.toInt < 0 then 0x2D :: decDigits 10 v.toInt.natAbs else decDigits 10 v.toInt.natAbs

/-! ### Token grammars -/

/-- An optional single sign: whether it is `-`, and the rest of the token. -/
def takeSign : Text → Bool × Text
  | [] => (false, [])
  | c :: t => if c = 0x2D then (true, t) else if c = 0x2B then (false, t) else (false, c :: t)

/-- One or more digits and nothing else. -/
def isDigits (t : Text) : Bool := !t.isEmpty && t.all isDigit

/-- Integer literal, R264: `[+-]?[0-9]+` in full, with a value in the `i32` range. -/
def parseInt (t : Text) : Option Word :=
  let (neg, ds) := takeSign t
  let v : Int := if neg then -(digitsVal ds : Int) else digitsVal ds
  if isDigits ds ∧ -2147483648 ≤ v ∧ v ≤ 2147483647 then some (wrap32 v) else none

/-- Boolean token, R266: exactly `1`, `true`, `0` and `false`. -/
def parseBool (t : Text) : Option Bool :=
  if t = [0x31] ∨ t = [0x74, 0x72, 0x75, 0x65] then some true
  else if t = [0x30] ∨ t = [0x66, 0x61, 0x6C, 0x73, 0x65] then some false
  else none

/-- The exponent part of R265, `([eE][+-]?D+)?`, in full. -/
def parseExponent : Text → Option Int
  | [] => some 0
  | c :: t =>
    if c = 0x65 ∨ c = 0x45 then
      let (neg, ds) := takeSign t
      if isDigits ds then some (if neg then -(digitsVal ds : Int) else digitsVal ds) else none
    else none

/-- The binary32 magnitude nearest to `m * 10^e`, ties to even (R265), by exact arithmetic. -/
def decimalMagExact (m : Nat) (e : Int) : Nat :=
  if 0 ≤ e then roundMag (m * 10 ^ e.toNat * 2 ^ 149) 1
  else roundMag (m * 2 ^ 149) (10 ^ (-e).toNat)

/-- The same magnitude for `m` of at most `n` decimal digits, without building the power of ten when
it alone decides the result: from 10^39 up every non-zero value is infinite, and a value below
10^-46 is nearer to zero than to the least subnormal (log entry 5). -/
def decimalMag (n m : Nat) (e : Int) : Nat :=
  if m = 0 then 0
  else if 39 ≤ e then infMag
  else if n + e ≤ -46 then 0
  else decimalMagExact m e

/-- The fraction part of R265, `(\.D*)?`: the digits after the point, and the rest. -/
def takeFraction : Text → Text × Text
  | [] => ([], [])
  | c :: t => if c = 0x2E then (t.takeWhile isDigit, t.dropWhile isDigit) else ([], c :: t)

/-- `PARSE_FLOAT`, R265: `[+-]?(D+(\.D*)?|\.D+)([eE][+-]?D+)?` in full, to the nearest binary32. -/
def parseFloat (t : Text) : Option Word :=
  let (neg, body) := takeSign t
  let ip := body.takeWhile isDigit
  let (fp, rest) := takeFraction (body.dropWhile isDigit)
  let ds := ip ++ fp
  if ds = [] then none
  else (parseExponent rest).map fun e =>
    pack neg (decimalMag ds.length (digitsVal ds) (e - fp.length))

/-! ### Output tokens -/

/-- The boolean tokens written by service 6, R261: `true` and `false`. -/
def boolText (b : Bool) : Text :=
  if b then [0x74, 0x72, 0x75, 0x65] else [0x66, 0x61, 0x6C, 0x73, 0x65]

end Sys2Proof.Machine
end

