-- ==== Sys2Proof/Machine/Arith.lean ====
section
/-! DEFINITION. The meanings of the ten arithmetic instructions (`spec/42_arithmetic.md`). -/

namespace Sys2Proof.Machine

/-! ### Integer arithmetic -/

/-- The sum of R141, taken in `Z` and reduced modulo 2^32. -/
def addWord (a b : Word) : Word := wrap32 (a.toInt + b.toInt)

/-- The difference of R142. -/
def subWord (a b : Word) : Word := wrap32 (a.toInt - b.toInt)

/-- The product of R143, low 32 bits kept. -/
def mulWord (a b : Word) : Word := wrap32 (a.toInt * b.toInt)

/-- The quotient of R144, rounded toward zero. -/
def divWord (a b : Word) : Word := wrap32 (a.toInt.tdiv b.toInt)

/-- The remainder of R145. -/
def modWord (a b : Word) : Word := wrap32 (a.toInt - a.toInt.tdiv b.toInt * b.toInt)

/-- The shape of the integer arithmetic of R140: both sources are read, then `x[d]` is written, then
`pc` advances. -/
def intArith (i : Instr) (o1 o2 o3 : Word) (op : Word → Word → Word) (s : State) : State :=
  withRegs3 i o1 o2 o3 s fun d a b => (s.writeX d (op (s.readX a) (s.readX b))).advance

/-- The same with a divisor, R144 and R145: a zero divisor is a fault (R287). -/
def intDivide (i : Instr) (o1 o2 o3 : Word) (op : Word → Word → Word) (s : State) : State :=
  withRegs3 i o1 o2 o3 s fun d a b =>
    if s.readX b = 0 then s.raise .divisionByZero i
    else (s.writeX d (op (s.readX a) (s.readX b))).advance

/-- `ADDi d, a, b`, R141. -/
def execAddi (d a b : Word) (s : State) : Result :=
  .next (intArith (.addi d a b) d a b addWord s)

/-- `SUBi d, a, b`, R142. -/
def execSubi (d a b : Word) (s : State) : Result :=
  .next (intArith (.subi d a b) d a b subWord s)

/-- `MULi d, a, b`, R143. -/
def execMuli (d a b : Word) (s : State) : Result :=
  .next (intArith (.muli d a b) d a b mulWord s)

/-- `DIVi d, a, b`, R144. -/
def execDivi (d a b : Word) (s : State) : Result :=
  .next (intDivide (.divi d a b) d a b divWord s)

/-- `MODi d, a, b`, R145. -/
def execModi (d a b : Word) (s : State) : Result :=
  .next (intDivide (.modi d a b) d a b modWord s)

/-! ### Float arithmetic -/

/-- Write a float result to `f[d]`. A NaN result takes the next draw of `NAN_RESULT`, R158. -/
def State.writeFloat (s : State) (d : Fin 32) : FloatResult → State
  | .num v => s.writeF d v
  | .nan => { s.writeF d (quietNaN (Config.nanDraw s.nanDraws)) with nanDraws := s.nanDraws + 1 }

/-- The shape of the float arithmetic of R150; no fault on any value. -/
def floatArith (i : Instr) (o1 o2 o3 : Word) (op : Word → Word → FloatResult) (s : State) : State :=
  withRegs3 i o1 o2 o3 s fun d a b => (s.writeFloat d (op (s.readF a) (s.readF b))).advance

/-- `ADDf d, a, b`, R152. -/
def execAddf (d a b : Word) (s : State) : Result :=
  .next (floatArith (.addf d a b) d a b fadd32 s)

/-- `SUBf d, a, b`, R153. -/
def execSubf (d a b : Word) (s : State) : Result :=
  .next (floatArith (.subf d a b) d a b fsub32 s)

/-- `MULf d, a, b`, R154. -/
def execMulf (d a b : Word) (s : State) : Result :=
  .next (floatArith (.mulf d a b) d a b fmul32 s)

/-- `DIVf d, a, b`, R155. -/
def execDivf (d a b : Word) (s : State) : Result :=
  .next (floatArith (.divf d a b) d a b fdiv32 s)

/-- `MODf d, a, b`, R156. -/
def execModf (d a b : Word) (s : State) : Result :=
  .next (floatArith (.modf d a b) d a b fmod32 s)

end Sys2Proof.Machine
end

