-- ==== Sys2Proof/Machine/Control.lean ====
section
/-! DEFINITION. The meanings of `HALT` and `NOOP` (`spec/41_control.md`). -/

namespace Sys2Proof.Machine

/-- `HALT`, R135: `RUN` becomes Halted; `pc` keeps the address of the `HALT`. -/
def execHalt (_u1 _u2 _u3 : Word) (s : State) : Result := .next s.halt

/-- `NOOP`, R136: only `pc` advances. -/
def execNoop (_u1 _u2 _u3 : Word) (s : State) : Result := .next s.advance

end Sys2Proof.Machine
end

