-- ==== Sys2Proof/Machine/LoadStore.lean ====
section
/-! DEFINITION. The meanings of the loads and stores (`spec/45_load_store.md`). The one addressing
mode is direct: the address is the operand field itself (R227). -/

namespace Sys2Proof.Machine

/-- `LDWi d, addr`, R221: the 32 bits of the cell as they are. -/
def execLdwi (d addr u3 : Word) (s : State) : Result :=
  .next (withRegCell (.ldwi d addr u3) d addr s fun r a => (s.writeX r (s.readData a)).advance)

/-- `LDWf d, addr`, R222: the 32 bits of the cell as they are. -/
def execLdwf (d addr u3 : Word) (s : State) : Result :=
  .next (withRegCell (.ldwf d addr u3) d addr s fun r a => (s.writeF r (s.readData a)).advance)

/-- `LDIi d, c`, R223: the whole field is the constant. -/
def execLdii (d c u3 : Word) (s : State) : Result :=
  .next (withReg (.ldii d c u3) d s fun r => (s.writeX r c).advance)

/-- `LDIf d, c`, R224: the field's bits, not its integer value converted. -/
def execLdif (d c u3 : Word) (s : State) : Result :=
  .next (withReg (.ldif d c u3) d s fun r => (s.writeF r c).advance)

/-- `STWi addr, r`, R225: the bits of `x[r]` to the cell. -/
def execStwi (addr r u3 : Word) (s : State) : Result :=
  .next (withRegCell (.stwi addr r u3) r addr s fun q a => (s.writeData a (s.readX q)).advance)

/-- `STWf addr, r`, R226: the bits of `f[r]` to the cell. -/
def execStwf (addr r u3 : Word) (s : State) : Result :=
  .next (withRegCell (.stwf addr r u3) r addr s fun q a => (s.writeData a (s.readF q)).advance)

end Sys2Proof.Machine
end

