-- ==== Sys2Proof/Machine/Flags.lean ====
section
/-! DEFINITION. Truth values. The machine has no flags and no condition codes (`spec/10_state.md`
R31): a comparison leaves 1 or 0 in an integer register and a branch reads one. -/

namespace Sys2Proof.Machine

/-- The outcome of a comparison as a register value, R170: 1 for true, 0 for false. -/
def boolWord (b : Bool) : Word := if b then 1 else 0

/-- A register read as a boolean, R200: 1 is true, 0 is false, any other value is none
(`InvalidBooleanValue`, R288). -/
def truthOf (v : Word) : Option Bool :=
  if v = 1 then some true else if v = 0 then some false else none

end Sys2Proof.Machine
end

