-- ==== Sys2Proof/Machine/Relational.lean ====
section
/-! DEFINITION. The meanings of the eighteen relational instructions (`spec/43_relational.md`). -/

namespace Sys2Proof.Machine

/-- The shape of the integer relations of R170, on the signed values (R171). -/
def intRelation (i : Instr) (o1 o2 o3 : Word) (rel : Int → Int → Bool) (s : State) : State :=
  withRegs3 i o1 o2 o3 s fun d a b =>
    (s.writeX d (boolWord (rel (s.readX a).toInt (s.readX b).toInt))).advance

/-- The shape of the float relations: float sources, integer destination, R170. -/
def floatRelation (i : Instr) (o1 o2 o3 : Word) (rel : Word → Word → Bool) (s : State) : State :=
  withRegs3 i o1 o2 o3 s fun d a b =>
    (s.writeX d (boolWord (rel (s.readF a) (s.readF b)))).advance

/-- The shape of the string relations: two slots compared by `cmp_text`, whose sign is tested,
integer destination, R170 and R173. -/
def textRelation (i : Instr) (o1 o2 o3 : Word) (rel : Int → Bool) (s : State) : State :=
  withRegSlots i o1 o2 o3 s fun d t u => (s.writeX d (boolWord (rel (cmpText t u)))).advance

/-! ### Integer relations -/

/-- `EQUi d, a, b`, R174: `x[d]` is 1 if `x[a] = x[b]`, else 0. -/
def execEqui (d a b : Word) (s : State) : Result :=
  .next (intRelation (.equi d a b) d a b (fun a b => decide (a = b)) s)

/-- `NEQi d, a, b`, R175: `x[d]` is 1 if `x[a] ≠ x[b]`, else 0. -/
def execNeqi (d a b : Word) (s : State) : Result :=
  .next (intRelation (.neqi d a b) d a b (fun a b => decide (a ≠ b)) s)

/-- `LTHi d, a, b`, R176: `x[d]` is 1 if `x[a] < x[b]`, else 0. -/
def execLthi (d a b : Word) (s : State) : Result :=
  .next (intRelation (.lthi d a b) d a b (fun a b => decide (a < b)) s)

/-- `LTEi d, a, b`, R177: `x[d]` is 1 if `x[a] ≤ x[b]`, else 0. -/
def execLtei (d a b : Word) (s : State) : Result :=
  .next (intRelation (.ltei d a b) d a b (fun a b => decide (a ≤ b)) s)

/-- `GTHi d, a, b`, R178: `x[d]` is 1 if `x[a] > x[b]`, else 0. -/
def execGthi (d a b : Word) (s : State) : Result :=
  .next (intRelation (.gthi d a b) d a b (fun a b => decide (a > b)) s)

/-- `GTEi d, a, b`, R179: `x[d]` is 1 if `x[a] ≥ x[b]`, else 0. -/
def execGtei (d a b : Word) (s : State) : Result :=
  .next (intRelation (.gtei d a b) d a b (fun a b => decide (a ≥ b)) s)

/-! ### Float relations -/

/-- `EQUf d, a, b`, R180: `x[d]` is 1 if `f[a] = f[b]`, else 0. -/
def execEquf (d a b : Word) (s : State) : Result :=
  .next (floatRelation (.equf d a b) d a b feq32 s)

/-- `NEQf d, a, b`, R181: `x[d]` is 1 if `f[a] ≠ f[b]`, else 0. -/
def execNeqf (d a b : Word) (s : State) : Result :=
  .next (floatRelation (.neqf d a b) d a b (fun a b => !feq32 a b) s)

/-- `LTHf d, a, b`, R182: `x[d]` is 1 if `f[a] < f[b]`, else 0. -/
def execLthf (d a b : Word) (s : State) : Result :=
  .next (floatRelation (.lthf d a b) d a b flt32 s)

/-- `LTEf d, a, b`, R183: `x[d]` is 1 if `f[a] ≤ f[b]`, else 0. -/
def execLtef (d a b : Word) (s : State) : Result :=
  .next (floatRelation (.ltef d a b) d a b fle32 s)

/-- `GTHf d, a, b`, R184: `x[d]` is 1 if `f[a] > f[b]`, else 0. -/
def execGthf (d a b : Word) (s : State) : Result :=
  .next (floatRelation (.gthf d a b) d a b (fun a b => flt32 b a) s)

/-- `GTEf d, a, b`, R185: `x[d]` is 1 if `f[a] ≥ f[b]`, else 0. -/
def execGtef (d a b : Word) (s : State) : Result :=
  .next (floatRelation (.gtef d a b) d a b (fun a b => fle32 b a) s)

/-! ### String relations -/

/-- `EQUs d, j, k`, R186: `x[d]` is 1 if `ST[j] = ST[k]`, else 0. -/
def execEqus (d j k : Word) (s : State) : Result :=
  .next (textRelation (.equs d j k) d j k (fun c => decide (c = 0)) s)

/-- `NEQs d, j, k`, R187: `x[d]` is 1 if `ST[j] ≠ ST[k]`, else 0. -/
def execNeqs (d j k : Word) (s : State) : Result :=
  .next (textRelation (.neqs d j k) d j k (fun c => decide (c ≠ 0)) s)

/-- `LTHs d, j, k`, R188: `x[d]` is 1 if `ST[j] < ST[k]`, else 0. -/
def execLths (d j k : Word) (s : State) : Result :=
  .next (textRelation (.lths d j k) d j k (fun c => decide (c < 0)) s)

/-- `LTEs d, j, k`, R189: `x[d]` is 1 if `ST[j] ≤ ST[k]`, else 0. -/
def execLtes (d j k : Word) (s : State) : Result :=
  .next (textRelation (.ltes d j k) d j k (fun c => decide (c ≤ 0)) s)

/-- `GTHs d, j, k`, R190: `x[d]` is 1 if `ST[j] > ST[k]`, else 0. -/
def execGths (d j k : Word) (s : State) : Result :=
  .next (textRelation (.gths d j k) d j k (fun c => decide (c > 0)) s)

/-- `GTEs d, j, k`, R191: `x[d]` is 1 if `ST[j] ≥ ST[k]`, else 0. -/
def execGtes (d j k : Word) (s : State) : Result :=
  .next (textRelation (.gtes d j k) d j k (fun c => decide (c ≥ 0)) s)

end Sys2Proof.Machine
end

