-- ==== Sys2Proof/Machine/StringStore.lean ====
section
/-! DEFINITION. The meaning of `SSTR` (`spec/46_string_store.md`). -/

namespace Sys2Proof.Machine

/-- `SSTR k`, R240: slot `k` receives constant-pool entry `k`. The pool index is checked first, then
the slot number, then the length of the entry. -/
def execSstr (k u2 u3 : Word) (s : State) : Result :=
  let i := Instr.sstr k u2 u3
  .next (
    match text? s.pool k with
    | none => s.raise .stringIndexOutOfRange i
    | some t =>
      withSlot i k s fun _ =>
        if Config.maxTextLen < t.length then s.raise .stringTooLong i
        else (s.writeSlot k.toInt.toNat t).advance)

end Sys2Proof.Machine
end

