-- ==== Sys2Proof/Machine/Syscall.lean ====
section
/-! DEFINITION. The meaning of `CALL` and of the eight services of the syscall unit
(`spec/47_syscall.md`). -/

namespace Sys2Proof.Machine

/-- What the four read services share: one `next_token()` (R251). While it waits nothing changes
(R128, R267); with no token left the fault is `IOParseError` (R268); a token is handed to `store`,
which gives the state written or the fault. In every case but waiting the input has been consumed
(R270), and a read that succeeds advances `pc` (R250). -/
def readService (i : Instr) (s : State) (store : Text → State → Except FaultKind State) : State :=
  match s.nextToken with
  | .blocked => s
  | .ended n => (s.consume n).raise .ioParseError i
  | .token t n =>
    match store t (s.consume n) with
    | .ok s' => s'.advance
    | .error k => (s.consume n).raise k i

/-- Service 0, R255: an integer token into `x[x]`. -/
def readIntService (i : Instr) (x : Word) (s : State) : State :=
  withReg i x s fun r => readService i s fun t s' =>
    match parseInt t with
    | some v => .ok (s'.writeX r v)
    | none => .error .ioParseError

/-- Service 1, R256: a floating-point token into `f[x]`. -/
def readFloatService (i : Instr) (x : Word) (s : State) : State :=
  withReg i x s fun r => readService i s fun t s' =>
    match parseFloat t with
    | some v => .ok (s'.writeF r v)
    | none => .error .ioParseError

/-- Service 2, R257: a boolean token, as 0 or 1, into `x[x]`. -/
def readBoolService (i : Instr) (x : Word) (s : State) : State :=
  withReg i x s fun r => readService i s fun t s' =>
    match parseBool t with
    | some b => .ok (s'.writeX r (boolWord b))
    | none => .error .ioParseError

/-- Service 3, R258: a text token into slot `x`; a token of more than 128 bytes is rejected. -/
def readStringService (i : Instr) (x : Word) (s : State) : State :=
  withSlot i x s fun _ => readService i s fun t s' =>
    if Config.maxTextLen < t.length then .error .stringTooLong
    else .ok (s'.writeSlot x.toInt.toNat t)

/-- Service 4, R259: the decimal text of `x[x]`. -/
def writeIntService (i : Instr) (x : Word) (s : State) : State :=
  withReg i x s fun r => (s.emit (dec (s.readX r))).advance

/-- Service 5, R260: the rendering of `f[x]`, an open parameter (log entry 4). -/
def writeFloatService (i : Instr) (x : Word) (s : State) : State :=
  withReg i x s fun r => (s.emit (Config.renderFloat (s.readF r))).advance

/-- Service 6, R261: `true` or `false`; any other value in the register is a fault. -/
def writeBoolService (i : Instr) (x : Word) (s : State) : State :=
  withReg i x s fun r =>
    match truthOf (s.readX r) with
    | some b => (s.emit (boolText b)).advance
    | none => s.raise .invalidBooleanValue i

/-- Service 7, R263: the text of slot `x`. -/
def writeStringService (i : Instr) (x : Word) (s : State) : State :=
  withSlot i x s fun t => (s.emit t).advance

/-- The dispatch of the syscall unit, R250. -/
def runService (i : Instr) (x : Word) (s : State) : Service → State
  | .readInt => readIntService i x s
  | .readFloat => readFloatService i x s
  | .readBool => readBoolService i x s
  | .readString => readStringService i x s
  | .writeInt => writeIntService i x s
  | .writeFloat => writeFloatService i x s
  | .writeBool => writeBoolService i x s
  | .writeString => writeStringService i x s

/-- `CALL code, x`, R250: the code is checked before `x` is looked at (R292). -/
def execCall (code x u3 : Word) (s : State) : Result :=
  let i := Instr.call code x u3
  .next (
    match service? code with
    | none => s.raise .invalidSyscall i
    | some v => runService i x s v)

/-! ### Waiting -/

/-- The services that read a token, with the check each makes on its operand before the read starts
(R255 to R258, R267). The other four read nothing. -/
def State.startsRead (s : State) (x : Word) : Service → Bool
  | .readInt => (reg? x).isSome
  | .readFloat => (reg? x).isSome
  | .readBool => (reg? x).isSome
  | .readString => (text? s.strTable x).isSome
  | .writeInt => false
  | .writeFloat => false
  | .writeBool => false
  | .writeString => false

/-- The instruction waits at `s`, R128: it is a `CALL` of a read service that has started its read,
and neither a whole token nor the end of the stream has arrived. No other instruction can wait. -/
def State.WaitsIn (s : State) (i : Instr) : Prop :=
  ∃ code x u3 v, i = .call code x u3 ∧ service? code = some v ∧ s.startsRead x v = true ∧
    s.nextToken = .blocked

end Sys2Proof.Machine
end

