-- ==== Sys2Proof/Machine/Transfer.lean ====
section
/-! DEFINITION. The meanings of the control transfers (`spec/44_control_transfer.md`). -/

namespace Sys2Proof.Machine

/-- The target of a taken branch, R204: the branch's own address plus the offset, modulo 2^32. -/
def branchTarget (pc off : Word) : Word := wrap32 (pc.toInt + off.toInt)

/-- The shape of the branches of R202 and R203: taken when `x[r]` reads as the boolean `sense`; a
register that is no boolean is a fault whether or not the branch would be taken. -/
def branchOn (sense : Bool) (i : Instr) (o off : Word) (s : State) : State :=
  withReg i o s fun r =>
    match truthOf (s.readX r) with
    | none => s.raise .invalidBooleanValue i
    | some c => if c = sense then s.setPc (branchTarget s.pc off) else s.advance

/-- `JUMP addr`, R201: no check here; the next fetch checks the target (R206). -/
def execJump (addr _u2 _u3 : Word) (s : State) : Result := .next (s.setPc addr)

/-- `BOTb r, off`, R202: branch on true. -/
def execBotb (r off u3 : Word) (s : State) : Result :=
  .next (branchOn true (.botb r off u3) r off s)

/-- `BOFb r, off`, R203: branch on false. -/
def execBofb (r off u3 : Word) (s : State) : Result :=
  .next (branchOn false (.bofb r off u3) r off s)

end Sys2Proof.Machine
end

