-- ==== Sys2Proof/Machine/Dispatch.lean ====
section
/-! DEFINITION. The per-opcode handler multiplexer (`spec/40_engine_cycle.md` R124): exactly one
meaning for each instruction. -/

namespace Sys2Proof.Machine

def exec (i : Instr) (s : State) : Host.Outcome State Fault Refusal :=
  match i with
  | .halt u1 u2 u3 => Sys2Proof.Machine.execHalt u1 u2 u3 s
  | .noop u1 u2 u3 => Sys2Proof.Machine.execNoop u1 u2 u3 s
  | .addi d a b => Sys2Proof.Machine.execAddi d a b s
  | .addf d a b => Sys2Proof.Machine.execAddf d a b s
  | .subi d a b => Sys2Proof.Machine.execSubi d a b s
  | .subf d a b => Sys2Proof.Machine.execSubf d a b s
  | .muli d a b => Sys2Proof.Machine.execMuli d a b s
  | .mulf d a b => Sys2Proof.Machine.execMulf d a b s
  | .divi d a b => Sys2Proof.Machine.execDivi d a b s
  | .divf d a b => Sys2Proof.Machine.execDivf d a b s
  | .modi d a b => Sys2Proof.Machine.execModi d a b s
  | .modf d a b => Sys2Proof.Machine.execModf d a b s
  | .equi d a b => Sys2Proof.Machine.execEqui d a b s
  | .equf d a b => Sys2Proof.Machine.execEquf d a b s
  | .equs d j k => Sys2Proof.Machine.execEqus d j k s
  | .neqi d a b => Sys2Proof.Machine.execNeqi d a b s
  | .neqf d a b => Sys2Proof.Machine.execNeqf d a b s
  | .neqs d j k => Sys2Proof.Machine.execNeqs d j k s
  | .lthi d a b => Sys2Proof.Machine.execLthi d a b s
  | .lthf d a b => Sys2Proof.Machine.execLthf d a b s
  | .lths d j k => Sys2Proof.Machine.execLths d j k s
  | .ltei d a b => Sys2Proof.Machine.execLtei d a b s
  | .ltef d a b => Sys2Proof.Machine.execLtef d a b s
  | .ltes d j k => Sys2Proof.Machine.execLtes d j k s
  | .gthi d a b => Sys2Proof.Machine.execGthi d a b s
  | .gthf d a b => Sys2Proof.Machine.execGthf d a b s
  | .gths d j k => Sys2Proof.Machine.execGths d j k s
  | .gtei d a b => Sys2Proof.Machine.execGtei d a b s
  | .gtef d a b => Sys2Proof.Machine.execGtef d a b s
  | .gtes d j k => Sys2Proof.Machine.execGtes d j k s
  | .jump addr u2 u3 => Sys2Proof.Machine.execJump addr u2 u3 s
  | .botb r off u3 => Sys2Proof.Machine.execBotb r off u3 s
  | .bofb r off u3 => Sys2Proof.Machine.execBofb r off u3 s
  | .ldwi d addr u3 => Sys2Proof.Machine.execLdwi d addr u3 s
  | .ldwf d addr u3 => Sys2Proof.Machine.execLdwf d addr u3 s
  | .ldii d c u3 => Sys2Proof.Machine.execLdii d c u3 s
  | .ldif d c u3 => Sys2Proof.Machine.execLdif d c u3 s
  | .stwi addr r u3 => Sys2Proof.Machine.execStwi addr r u3 s
  | .stwf addr r u3 => Sys2Proof.Machine.execStwf addr r u3 s
  | .sstr k u2 u3 => Sys2Proof.Machine.execSstr k u2 u3 s
  | .call code x u3 => Sys2Proof.Machine.execCall code x u3 s

end Sys2Proof.Machine
end

