-- ==== Sys2Proof/Machine/Step.lean ====
section
/-! DEFINITION. One step of the engine (`spec/40_engine_cycle.md` R126). -/

namespace Sys2Proof.Machine

/-- One step, R126: while Running, fetch the word at `pc`, decode it and run its handler; in every
other run state nothing happens (R121). -/
def step (s : State) : Host.Outcome State Fault Refusal :=
  match s.run with
  | .running =>
    match fetch s with
    | none => fetchFault s
    | some w =>
      match decode w with
      | .error _ => decodeFault w s
      | .ok i => exec i s
  | .loaded => idle s
  | .halted => idle s
  | .faulted => idle s

/-- `s` with the table word `w` stored where the next step fetches, and the machine started, which
the fetch needs: execution begins when the host issues `start` (R325, log entry 6). -/
def State.withFetchWord (s : State) (nbits w : Nat) : State :=
  { s.writeInstr s.pc.toInt.toNat (BitVec.ofNat 128 (w % 2 ^ nbits)) with run := .running }

end Sys2Proof.Machine
end

