-- ==== Sys2Proof/Machine/HostPort.lean ====
section
/-! DEFINITION. What the host and the environment may do between steps, and what the host may read
(`spec/70_reset_and_hazards.md` R320 to R327, `spec/10_state.md` R37 to R39, R44). -/

namespace Sys2Proof.Machine

/-- The actions of the host and the environment, R326. -/
inductive HostAction where
  /-- Reset, R320. -/
  | reset
  /-- Write one instruction word, R323 (2). -/
  | writeInstr (addr : Nat) (w : InstrWord)
  /-- Write one data cell, R323 (3). -/
  | writeData (addr : Nat) (v : Word)
  /-- Write one string-table slot, R323 (4). -/
  | writeSlot (slot : Nat) (t : Text)
  /-- Supply the constant pool, R323 (5). -/
  | setPool (entries : List Text)
  /-- Start the run, R325. -/
  | start
  /-- The environment appends bytes to `IN`, R44. -/
  | appendInput (bytes : List Byte)
  /-- The environment marks the end of `IN`, R44. -/
  | endInput
  deriving DecidableEq, Repr

/-- A loader's write: only while Loaded (R326) and only within the bounds of R324. -/
def loaderWrite (inBounds : Bool) (s s' : State) : Result :=
  if s.run = .loaded then (if inBounds then .next s' else .refused .hostLoadOutOfBounds)
  else .refused .hostWriteNotLoaded

/-- The effect of one host or environment action. Reset discards the run (R320) and with it the
input of the run (log entry 10); the draws of open values go on (log entry 3). `start` outside
Loaded is ignored (R325). The pool is not checked for length: the engine checks an entry when it is
used (R324). -/
def hostAct (act : HostAction) (s : State) : Result :=
  match act with
  | .reset => .next { State.reset with nanDraws := s.nanDraws }
  | .writeInstr a w => loaderWrite (decide (a < Config.instrCapacity)) s (s.writeInstr a w)
  | .writeData a v => loaderWrite (decide (a < Config.dataCapacity)) s (s.writeData a v)
  | .writeSlot k t =>
    loaderWrite (decide (k < s.strTable.length) && decide (t.length ≤ Config.maxTextLen)) s
      (s.writeSlot k t)
  | .setPool entries => loaderWrite true s { s with pool := entries }
  | .start => .next (if s.run = .loaded then { s with run := .running } else s)
  | .appendInput bytes =>
    if s.inEnded then .refused .inputAfterEnd else .next { s with inBytes := s.inBytes ++ bytes }
  | .endInput => .next { s with inEnded := true }

/-! ### Status read-out -/

/-- The 2-bit encoding of `RUN`, R37. -/
def RunState.code : RunState → BitVec 2
  | .loaded => 0
  | .running => 1
  | .halted => 2
  | .faulted => 3

/-- The numeric code of a fault kind, R280. -/
def FaultKind.code : FaultKind → BitVec 4
  | .invalidOpcode => 1
  | .operandOutOfRange => 2
  | .instructionAddressOutOfRange => 3
  | .dataAddressOutOfRange => 4
  | .stringIndexOutOfRange => 5
  | .stringTooLong => 6
  | .divisionByZero => 7
  | .invalidBooleanValue => 8
  | .invalidSyscall => 9
  | .ioParseError => 10

/-- `FR.kind` as the host reads it, R38: 0 when no fault has been recorded. -/
def FaultRecord.kindCode (fr : FaultRecord) : BitVec 4 :=
  match fr.kind with
  | none => 0
  | some k => k.code

/-- `EXIT`, R39: 0 when Halted, 1 when Faulted, without meaning before the end of the run. -/
def State.exitStatus (s : State) : Option Nat :=
  match s.run with
  | .loaded => none
  | .running => none
  | .halted => some 0
  | .faulted => some 1

end Sys2Proof.Machine
end

