-- ==== Sys2Proof/Safety.lean ====
section
/-! DEFINITION. What a good state and a safe run are, in the terms the statements use. -/

namespace Sys2Proof

open Machine

/-- The form every state of a run has. -/
structure Machine.State.Inv (s : State) : Prop where
  /-- Instruction memory is canonical and within R32. -/
  instrMem : Memory.wf Config.instrCapacity s.instrMem = true
  /-- Data memory is canonical and within R33. -/
  dataMem : Memory.wf Config.dataCapacity s.dataMem = true
  /-- The string table has its `STR_CAPACITY` slots, R34 (log entry 2). -/
  slots : s.strTable.length = Config.strCapacity
  /-- No slot holds a text of more than 128 characters, R35. -/
  texts : ∀ t ∈ s.strTable, t.length ≤ Config.maxTextLen
  /-- No more input has been consumed than supplied, R44. -/
  input : s.inPos ≤ s.inBytes.length
  /-- The fault record is clear unless the run has ended Faulted, R38. -/
  clear : s.run ≠ .faulted → s.fr = FaultRecord.clear
  /-- A Faulted run has a recorded fault, R293. -/
  recorded : s.run = .faulted → s.fr.kind ≠ none

/-- The run has ended, R328. -/
def Machine.State.Ended (s : State) : Prop := s.run = .halted ∨ s.run = .faulted

/-- Nothing has gone wrong so far: no fault has been taken. -/
def Machine.State.Unfaulted (s : State) : Prop := s.run ≠ .faulted

/-- The engine is blocked in a read, R128: it is Running, and the instruction at `pc` is a `CALL` of a
read service that waits for input. A loop of one instruction is no waiting (R334). -/
def Machine.State.Waiting (s : State) : Prop :=
  s.run = .running ∧ ∃ w i, fetch s = some w ∧ decode w = .ok i ∧ s.WaitsIn i

/-- A state reached from reset by steps of the engine and actions of the host and the environment. -/
inductive Machine.Reachable : State → Prop where
  /-- The state after reset. -/
  | reset : Machine.Reachable State.reset
  /-- One step of the engine. -/
  | step {s t : State} : Machine.Reachable s → step s = .next t → Machine.Reachable t
  /-- One action of the host or the environment. -/
  | host {s t : State} (act : HostAction) :
      Machine.Reachable s → hostAct act s = .next t → Machine.Reachable t

end Sys2Proof
end

