-- ==== Sys2Proof/WellFormed.lean ====
section
/-! DEFINITION. The legal operand ranges (`spec/30_encoding.md` R94), by format (R93). An
instruction with an operand outside them still decodes and runs: it takes the fault R94 names. -/

namespace Sys2Proof

/-- The range test of R9: `0 <= o < n` on the operand read as a signed `i32`. -/
def inRange (n : Nat) (o : Word) : Bool :=
  decide (0 ≤ o.toInt) && decide (o.toInt < n)

/-- A register index, 0 to 31. -/
def isReg (o : Word) : Bool := inRange 32 o

/-- A data address, 0 to 1023. -/
def isDataAddr (o : Word) : Bool := inRange Config.dataCapacity o

/-- A string slot, 0 to `STR_CAPACITY - 1`. -/
def isSlot (o : Word) : Bool := inRange Config.strCapacity o

/-- A service code, 0 to 7. -/
def isCode (o : Word) : Bool := inRange Config.numSyscallCodes o

/-- Whether every operand the opcode has lies in its legal range, R94. Constants, branch offsets,
jump addresses and unused fields are never checked. The pool index of `SSTR` must also be below
`POOL_SIZE`, which the loader sets, so that bound is not part of this check. -/
def Instr.WellFormed : Instr → Bool
  | .halt _ _ _ => true
  | .noop _ _ _ => true
  | .addi d a b => isReg d && isReg a && isReg b
  | .addf d a b => isReg d && isReg a && isReg b
  | .subi d a b => isReg d && isReg a && isReg b
  | .subf d a b => isReg d && isReg a && isReg b
  | .muli d a b => isReg d && isReg a && isReg b
  | .mulf d a b => isReg d && isReg a && isReg b
  | .divi d a b => isReg d && isReg a && isReg b
  | .divf d a b => isReg d && isReg a && isReg b
  | .modi d a b => isReg d && isReg a && isReg b
  | .modf d a b => isReg d && isReg a && isReg b
  | .equi d a b => isReg d && isReg a && isReg b
  | .equf d a b => isReg d && isReg a && isReg b
  | .equs d j k => isReg d && isSlot j && isSlot k
  | .neqi d a b => isReg d && isReg a && isReg b
  | .neqf d a b => isReg d && isReg a && isReg b
  | .neqs d j k => isReg d && isSlot j && isSlot k
  | .lthi d a b => isReg d && isReg a && isReg b
  | .lthf d a b => isReg d && isReg a && isReg b
  | .lths d j k => isReg d && isSlot j && isSlot k
  | .ltei d a b => isReg d && isReg a && isReg b
  | .ltef d a b => isReg d && isReg a && isReg b
  | .ltes d j k => isReg d && isSlot j && isSlot k
  | .gthi d a b => isReg d && isReg a && isReg b
  | .gthf d a b => isReg d && isReg a && isReg b
  | .gths d j k => isReg d && isSlot j && isSlot k
  | .gtei d a b => isReg d && isReg a && isReg b
  | .gtef d a b => isReg d && isReg a && isReg b
  | .gtes d j k => isReg d && isSlot j && isSlot k
  | .jump _ _ _ => true
  | .botb r _ _ => isReg r
  | .bofb r _ _ => isReg r
  | .ldwi d addr _ => isReg d && isDataAddr addr
  | .ldwf d addr _ => isReg d && isDataAddr addr
  | .ldii d _ _ => isReg d
  | .ldif d _ _ => isReg d
  | .stwi addr r _ => isReg r && isDataAddr addr
  | .stwf addr r _ => isReg r && isDataAddr addr
  | .sstr k _ _ => isSlot k
  | .call code x _ => isCode code && (if code = 3 ∨ code = 7 then isSlot x else isReg x)

end Sys2Proof
end

