-- ==== Sys2Proof/Certificates/Slice0/Obligations.lean ====
section
/-! DEFINITION. The statements for the provers. The definitions of `Sys2Proof.Claim` say in the
spec's own terms what the statements share: the frame of an instruction, fault entry, tokens,
literals and the value of a binary32 pattern. -/

namespace Sys2Proof.Claim

open Machine

/-! ### Words and operands -/

/-- The instruction word of opcode number `n`, written out from R90: `op`, `o1`, `o2`, `o3` from the
high end. -/
def wordOf (n : Nat) (o1 o2 o3 : Word) : InstrWord := BitVec.ofNat 32 n ++ o1 ++ o2 ++ o3

/-- The raw fields of that word. -/
def fieldsOf (n : Nat) (o1 o2 o3 : Word) : Fields := ⟨BitVec.ofNat 32 n, o1, o2, o3⟩

/-- The operand, read as a signed `i32`, is the index `k` (R9). -/
def Is {n : Nat} (o : Word) (k : Fin n) : Prop := o.toInt = (k.val : Int)

/-- The operand, read as a signed `i32`, is outside `[0, n)` (R9). -/
def BadIndex (n : Nat) (o : Word) : Prop := o.toInt < 0 ∨ (n : Int) ≤ o.toInt

/-! ### Frames -/

/-- What an instruction may change: the value `pc` gets, the registers, cells and slots it may
write, how many input bytes it consumes, what it emits, and how many open NaN values it draws.
Whatever is not named stays. -/
structure Change where
  /-- The value `pc` gets. -/
  pc : Word
  /-- The integer registers that may change. -/
  xs : Fin 32 → Prop := fun _ => False
  /-- The float registers that may change. -/
  fs : Fin 32 → Prop := fun _ => False
  /-- The data cells that may change. -/
  cells : Nat → Prop := fun _ => False
  /-- The string-table slots that may change. -/
  slots : Nat → Prop := fun _ => False
  /-- The number of bytes of `IN` consumed. -/
  consumed : Nat := 0
  /-- The bytes appended to `OUT`. -/
  emitted : List Byte := []
  /-- The number of open NaN values drawn (the model's own counter, log entry 3). -/
  drawn : Nat := 0

/-- `t` differs from `s` only as `c` says, the run state and the fault record apart. -/
structure Frame (s t : State) (c : Change) : Prop where
  pc : t.pc = c.pc
  x : ∀ r, ¬ c.xs r → t.readX r = s.readX r
  f : ∀ r, ¬ c.fs r → t.readF r = s.readF r
  data : ∀ a, ¬ c.cells a → t.readData a = s.readData a
  slots : ∀ k, ¬ c.slots k → t.strTable[k]? = s.strTable[k]?
  slotCount : t.strTable.length = s.strTable.length
  instr : ∀ a, t.readInstr a = s.readInstr a
  pool : t.pool = s.pool
  inBytes : t.inBytes = s.inBytes
  inEnded : t.inEnded = s.inEnded
  inPos : t.inPos = s.inPos + c.consumed
  out : t.out = s.out ++ c.emitted
  draws : t.nanDraws = s.nanDraws + c.drawn

/-- An instruction completes without fault and without halting: the frame, and `RUN` and `FR` as
before. -/
structure Completes (s t : State) (c : Change) : Prop where
  frame : Frame s t c
  run : t.run = s.run
  fr : t.fr = s.fr

/-- Fault entry, R293, with `n` bytes of input consumed before it (R270): `FR` and `RUN` are
written, nothing else changes, and `pc` stays (R295). -/
structure EntersFault (s t : State) (k : FaultKind) (q : Option Fields) (n : Nat) : Prop where
  frame : Frame s t { pc := s.pc, consumed := n }
  run : t.run = .faulted
  kind : t.fr.kind = some k
  faultPc : t.fr.pc = s.pc
  validInstr : t.fr.validInstr = q.isSome
  fields : t.fr.fields = q.getD ⟨0, 0, 0, 0⟩

/-- The instruction `i`, fetched as the raw fields `q`, takes the fault `k` at `s`. -/
def Raises (i : Instr) (s : State) (k : FaultKind) (q : Fields) (n : Nat := 0) : Prop :=
  ∃ t, exec i s = .next t ∧ EntersFault s t k (some q) n

/-! ### Reset and loops -/

/-- The values of R46: every register, `pc` and both memories zero, every slot empty, no pool, Loaded,
a clear fault record, nothing read and nothing written. -/
structure ResetValues (s : State) : Prop where
  x : ∀ r, s.readX r = 0
  f : ∀ r, s.readF r = 0
  pc : s.pc = 0
  instr : ∀ a, s.readInstr a = 0
  data : ∀ a, s.readData a = 0
  slotCount : 1 ≤ s.strTable.length
  slots : ∀ t ∈ s.strTable, t = []
  pool : s.pool = []
  run : s.run = .loaded
  exit : s.exitStatus = none
  frKind : s.fr.kindCode = 0
  frPc : s.fr.pc = 0
  frValid : s.fr.validInstr = false
  frFields : s.fr.fields = ⟨0, 0, 0, 0⟩
  inPos : s.inPos = 0
  out : s.out = []

/-- The instruction at address `a` goes to the address in `pc` itself: a `JUMP` to `pc`, or a taken
branch with offset 0 (R129, R201 to R203). -/
def LoopsToItself (s : State) (a : Fin 1024) : Prop :=
  (∃ u v, decode (s.readInstr a) = .ok (.jump s.pc u v)) ∨
    (∃ (w v : Word) (r : Fin 32), Is w r ∧ s.readX r = 1 ∧
      decode (s.readInstr a) = .ok (.botb w 0 v)) ∨
    ∃ (w v : Word) (r : Fin 32), Is w r ∧ s.readX r = 0 ∧
      decode (s.readInstr a) = .ok (.bofb w 0 v)

/-! ### Shapes of instruction rules -/

/-- The rule of an integer operation that cannot fault on its values, R141 to R143. -/
def IntArithRule (n : Nat) (mk : Word → Word → Word → Instr) (op : Int → Int → Int) : Prop :=
  ∀ (s : State) (o1 o2 o3 : Word),
    decode (wordOf n o1 o2 o3) = .ok (mk o1 o2 o3) ∧
    (∀ d a b : Fin 32, Is o1 d → Is o2 a → Is o3 b →
      ∃ t, exec (mk o1 o2 o3) s = .next t ∧
        t.readX d = wrap32 (op (s.readX a).toInt (s.readX b).toInt) ∧
        Completes s t { pc := s.pc + 1, xs := fun r => r = d }) ∧
    (BadIndex 32 o1 ∨ BadIndex 32 o2 ∨ BadIndex 32 o3 →
      Raises (mk o1 o2 o3) s .operandOutOfRange (fieldsOf n o1 o2 o3))

/-- The rule of a signed division, R144 and R145. -/
def IntDivideRule (n : Nat) (mk : Word → Word → Word → Instr) (op : Int → Int → Int) : Prop :=
  ∀ (s : State) (o1 o2 o3 : Word),
    decode (wordOf n o1 o2 o3) = .ok (mk o1 o2 o3) ∧
    (∀ d a b : Fin 32, Is o1 d → Is o2 a → Is o3 b → s.readX b ≠ 0 →
      ∃ t, exec (mk o1 o2 o3) s = .next t ∧
        t.readX d = wrap32 (op (s.readX a).toInt (s.readX b).toInt) ∧
        Completes s t { pc := s.pc + 1, xs := fun r => r = d }) ∧
    (∀ d a b : Fin 32, Is o1 d → Is o2 a → Is o3 b → s.readX b = 0 →
      Raises (mk o1 o2 o3) s .divisionByZero (fieldsOf n o1 o2 o3)) ∧
    (BadIndex 32 o1 ∨ BadIndex 32 o2 ∨ BadIndex 32 o3 →
      Raises (mk o1 o2 o3) s .operandOutOfRange (fieldsOf n o1 o2 o3))

/-- A quiet NaN, R158: exponent field `0xFF` and fraction bit 22 set. -/
def QuietNaN (v : Word) : Prop := v.extractLsb' 23 8 = 0xFF#8 ∧ v.getLsbD 22 = true

/-- The rule of a float operation, R150: the primitive's number, or some quiet NaN. -/
def FloatArithRule (n : Nat) (mk : Word → Word → Word → Instr) (op : Word → Word → FloatResult) :
    Prop :=
  ∀ (s : State) (o1 o2 o3 : Word),
    decode (wordOf n o1 o2 o3) = .ok (mk o1 o2 o3) ∧
    (∀ d a b : Fin 32, Is o1 d → Is o2 a → Is o3 b →
      ∃ t, exec (mk o1 o2 o3) s = .next t ∧
        ((∃ v, op (s.readF a) (s.readF b) = .num v ∧ t.readF d = v ∧
            Completes s t { pc := s.pc + 1, fs := fun r => r = d }) ∨
          (op (s.readF a) (s.readF b) = .nan ∧ QuietNaN (t.readF d) ∧
            Completes s t { pc := s.pc + 1, fs := fun r => r = d, drawn := 1 }))) ∧
    (BadIndex 32 o1 ∨ BadIndex 32 o2 ∨ BadIndex 32 o3 →
      Raises (mk o1 o2 o3) s .operandOutOfRange (fieldsOf n o1 o2 o3))

/-- The rule of a relation between two registers of one bank, R170: 1 or 0 to an integer register. -/
def RegRelationRule (n : Nat) (mk : Word → Word → Word → Instr)
    (bank : State → Fin 32 → Word) (rel : Word → Word → Prop) : Prop :=
  ∀ (s : State) (o1 o2 o3 : Word),
    decode (wordOf n o1 o2 o3) = .ok (mk o1 o2 o3) ∧
    (∀ d a b : Fin 32, Is o1 d → Is o2 a → Is o3 b →
      ∃ t, exec (mk o1 o2 o3) s = .next t ∧
        (rel (bank s a) (bank s b) → t.readX d = 1) ∧
        (¬ rel (bank s a) (bank s b) → t.readX d = 0) ∧
        Completes s t { pc := s.pc + 1, xs := fun r => r = d }) ∧
    (BadIndex 32 o1 ∨ BadIndex 32 o2 ∨ BadIndex 32 o3 →
      Raises (mk o1 o2 o3) s .operandOutOfRange (fieldsOf n o1 o2 o3))

/-- The rule of a relation between two string-table slots, R170 and R186 to R191: the register is
checked before the slots. -/
def TextRelationRule (n : Nat) (mk : Word → Word → Word → Instr) (rel : Int → Prop) : Prop :=
  ∀ (s : State) (o1 o2 o3 : Word),
    decode (wordOf n o1 o2 o3) = .ok (mk o1 o2 o3) ∧
    (∀ (d : Fin 32) (j k : Fin s.strTable.length), Is o1 d → Is o2 j → Is o3 k →
      ∃ t, exec (mk o1 o2 o3) s = .next t ∧
        (rel (cmpText s.strTable[j] s.strTable[k]) → t.readX d = 1) ∧
        (¬ rel (cmpText s.strTable[j] s.strTable[k]) → t.readX d = 0) ∧
        Completes s t { pc := s.pc + 1, xs := fun r => r = d }) ∧
    (BadIndex 32 o1 → Raises (mk o1 o2 o3) s .operandOutOfRange (fieldsOf n o1 o2 o3)) ∧
    (¬ BadIndex 32 o1 → BadIndex s.strTable.length o2 ∨ BadIndex s.strTable.length o3 →
      Raises (mk o1 o2 o3) s .stringIndexOutOfRange (fieldsOf n o1 o2 o3))

/-- The rule of a branch, R202 and R203: taken on the register value `sense`, not taken on the value
`other`. -/
def BranchRule (n : Nat) (mk : Word → Word → Word → Instr) (sense other : Word) : Prop :=
  ∀ (s : State) (o1 o2 o3 : Word),
    decode (wordOf n o1 o2 o3) = .ok (mk o1 o2 o3) ∧
    (∀ r : Fin 32, Is o1 r → s.readX r = sense →
      ∃ t, exec (mk o1 o2 o3) s = .next t ∧
        Completes s t { pc := wrap32 (s.pc.toInt + o2.toInt) }) ∧
    (∀ r : Fin 32, Is o1 r → s.readX r = other →
      ∃ t, exec (mk o1 o2 o3) s = .next t ∧ Completes s t { pc := s.pc + 1 }) ∧
    (∀ r : Fin 32, Is o1 r → s.readX r ≠ 0 → s.readX r ≠ 1 →
      Raises (mk o1 o2 o3) s .invalidBooleanValue (fieldsOf n o1 o2 o3)) ∧
    (BadIndex 32 o1 → Raises (mk o1 o2 o3) s .operandOutOfRange (fieldsOf n o1 o2 o3))

/-- The rule of a load, R221 and R222: the register is checked before the address. -/
def LoadRule (n : Nat) (mk : Word → Word → Word → Instr) (bank : State → Fin 32 → Word)
    (change : Word → Fin 32 → Change) : Prop :=
  ∀ (s : State) (o1 o2 o3 : Word),
    decode (wordOf n o1 o2 o3) = .ok (mk o1 o2 o3) ∧
    (∀ (d : Fin 32) (a : Fin 1024), Is o1 d → Is o2 a →
      ∃ t, exec (mk o1 o2 o3) s = .next t ∧ bank t d = s.readData a ∧
        Completes s t (change (s.pc + 1) d)) ∧
    (BadIndex 32 o1 → Raises (mk o1 o2 o3) s .operandOutOfRange (fieldsOf n o1 o2 o3)) ∧
    (¬ BadIndex 32 o1 → BadIndex 1024 o2 →
      Raises (mk o1 o2 o3) s .dataAddressOutOfRange (fieldsOf n o1 o2 o3))

/-- The rule of a load of a constant, R223 and R224. -/
def ConstantRule (n : Nat) (mk : Word → Word → Word → Instr) (bank : State → Fin 32 → Word)
    (change : Word → Fin 32 → Change) : Prop :=
  ∀ (s : State) (o1 o2 o3 : Word),
    decode (wordOf n o1 o2 o3) = .ok (mk o1 o2 o3) ∧
    (∀ d : Fin 32, Is o1 d →
      ∃ t, exec (mk o1 o2 o3) s = .next t ∧ bank t d = o2 ∧
        Completes s t (change (s.pc + 1) d)) ∧
    (BadIndex 32 o1 → Raises (mk o1 o2 o3) s .operandOutOfRange (fieldsOf n o1 o2 o3))

/-- The rule of a store, R225 and R226, in a state whose data memory is canonical: the cell named by
the operand `o1` itself (R227) receives the register's bits. -/
def StoreRule (n : Nat) (mk : Word → Word → Word → Instr) (bank : State → Fin 32 → Word) : Prop :=
  ∀ (s : State) (o1 o2 o3 : Word), Memory.wf 1024 s.dataMem = true →
    decode (wordOf n o1 o2 o3) = .ok (mk o1 o2 o3) ∧
    (∀ (r : Fin 32) (a : Fin 1024), Is o2 r → Is o1 a →
      ∃ t, exec (mk o1 o2 o3) s = .next t ∧ t.readData a = bank s r ∧
        Completes s t { pc := s.pc + 1, cells := fun c => c = a.val }) ∧
    (BadIndex 32 o2 → Raises (mk o1 o2 o3) s .operandOutOfRange (fieldsOf n o1 o2 o3)) ∧
    (¬ BadIndex 32 o2 → BadIndex 1024 o1 →
      Raises (mk o1 o2 o3) s .dataAddressOutOfRange (fieldsOf n o1 o2 o3))

/-! ### Tokens -/

/-- A whitespace byte, R254. -/
def Space (c : Byte) : Prop := c ∈ ([0x20, 0x09, 0x0A, 0x0B, 0x0C, 0x0D] : List Byte)

/-- `next_token()` returns the token `w` and consumes `n` bytes, R253: after leading whitespace, the
maximal run of other bytes, ended by a whitespace byte or by the end of the stream. -/
def TokenIs (s : State) (w : Text) (n : Nat) : Prop :=
  ∃ spaces rest : List Byte,
    s.inBytes.drop s.inPos = spaces ++ (w ++ rest) ∧
    (∀ c ∈ spaces, Space c) ∧ w ≠ [] ∧ (∀ c ∈ w, ¬ Space c) ∧
    (∀ c, rest.head? = some c → Space c) ∧ (rest = [] → s.inEnded = true) ∧
    n = spaces.length + w.length

/-- `next_token()` returns none and consumes `n` bytes, R253: only whitespace remains and the stream
has ended. -/
def NoToken (s : State) (n : Nat) : Prop :=
  s.inEnded = true ∧ (∀ c ∈ s.inBytes.drop s.inPos, Space c) ∧ n = (s.inBytes.drop s.inPos).length

/-- `next_token()` cannot return yet, R253 and R267: only whitespace, or a run of token bytes not yet
ended, and no end of the stream. -/
def MustWait (s : State) : Prop :=
  s.inEnded = false ∧ ∃ spaces w : List Byte, s.inBytes.drop s.inPos = spaces ++ w ∧
    (∀ c ∈ spaces, Space c) ∧ ∀ c ∈ w, ¬ Space c

/-- The instruction at `pc` is a `CALL` of a read service whose operand check passes: a register index
for codes 0 to 2, a slot number for code 3 (R255 to R258, R267). -/
def AtStartedRead (s : State) : Prop :=
  ∃ (a : Fin 1024) (code x u3 : Word), Is s.pc a ∧
    decode (s.readInstr a) = .ok (.call code x u3) ∧
    (((code = 0 ∨ code = 1 ∨ code = 2) ∧ ∃ r : Fin 32, Is x r) ∨
      (code = 3 ∧ ∃ k : Fin s.strTable.length, Is x k))

/-- The rule of a read service into a register, R255 to R257: the index is checked before any input
is touched, a good token is stored, and a malformed or missing one is `IOParseError` with its bytes
consumed (R268, R270). -/
def ReadRegRule (code : Word) (parse : Text → Option Word) (bank : State → Fin 32 → Word)
    (change : Word → Fin 32 → Nat → Change) : Prop :=
  ∀ (s : State) (x u3 : Word),
    decode (wordOf 40 code x u3) = .ok (.call code x u3) ∧
    (∀ r : Fin 32, Is x r →
      (∀ w n v, TokenIs s w n → parse w = some v →
        ∃ t, exec (.call code x u3) s = .next t ∧ bank t r = v ∧
          Completes s t (change (s.pc + 1) r n)) ∧
      (∀ w n, TokenIs s w n → parse w = none →
        Raises (.call code x u3) s .ioParseError (fieldsOf 40 code x u3) n) ∧
      ∀ n, NoToken s n → Raises (.call code x u3) s .ioParseError (fieldsOf 40 code x u3) n) ∧
    (BadIndex 32 x → Raises (.call code x u3) s .operandOutOfRange (fieldsOf 40 code x u3))

/-- The rule of a write service of a register, R259 and R260. -/
def WriteRegRule (code : Word) (bank : State → Fin 32 → Word) (render : Word → Text) : Prop :=
  ∀ (s : State) (x u3 : Word),
    decode (wordOf 40 code x u3) = .ok (.call code x u3) ∧
    (∀ r : Fin 32, Is x r →
      ∃ t, exec (.call code x u3) s = .next t ∧
        Completes s t { pc := s.pc + 1, emitted := render (bank s r) ++ [0x0A] }) ∧
    (BadIndex 32 x → Raises (.call code x u3) s .operandOutOfRange (fieldsOf 40 code x u3))

/-! ### Literals -/

/-- An ASCII decimal digit. -/
def Digit (c : Byte) : Prop := 0x30 ≤ c.toNat ∧ c.toNat ≤ 0x39

/-- The number a run of digits spells in base ten. -/
def decimalValue (ds : Text) : Nat := Nat.ofDigits 10 (ds.reverse.map fun c => c.toNat - 0x30)

/-- An optional single sign and what it says: `[+-]?` of R264 and R265. -/
def Sign (sgn : Text) (neg : Bool) : Prop :=
  (sgn = [] ∧ neg = false) ∨ (sgn = [0x2B] ∧ neg = false) ∨ (sgn = [0x2D] ∧ neg = true)

/-- The exponent part `([eE][+-]?D+)?` of R265 and its value. -/
def ExponentPart (t : Text) (e : Int) : Prop :=
  (t = [] ∧ e = 0) ∨
    ∃ (c : Byte) (sgn ds : Text) (neg : Bool), (c = 0x65 ∨ c = 0x45) ∧ Sign sgn neg ∧ ds ≠ [] ∧
      (∀ d ∈ ds, Digit d) ∧ t = c :: (sgn ++ ds) ∧
      e = if neg then -(decimalValue ds : Int) else decimalValue ds

/-- `[+-]?(D+(\.D*)?|\.D+)([eE][+-]?D+)?` of R265: the token spells `m * 10^e`, negated if `neg`. -/
def FloatLiteral (t : Text) (neg : Bool) (m : Nat) (e : Int) : Prop :=
  ∃ (sgn ip fp point ex : Text) (k : Int), Sign sgn neg ∧ (∀ d ∈ ip, Digit d) ∧
    (∀ d ∈ fp, Digit d) ∧ (ip ≠ [] ∨ fp ≠ []) ∧
    ((point = [] ∧ fp = []) ∨ point = [0x2E]) ∧ ExponentPart ex k ∧
    t = sgn ++ (ip ++ (point ++ (fp ++ ex))) ∧ m = decimalValue (ip ++ fp) ∧ e = k - fp.length

/-! ### Values of binary32 patterns -/

/-- A pattern with an exponent field below 255, R23. -/
def FiniteBits (v : Word) : Prop := v.extractLsb' 23 8 ≠ 0xFF#8

/-- The real number a finite binary32 pattern denotes, from the field positions of R23. -/
def realOf (v : Word) : ℚ :=
  let e := (v.extractLsb' 23 8).toNat
  let m := (v.extractLsb' 0 23).toNat
  (if v.getLsbD 31 then -1 else 1) * (if e = 0 then (m : ℚ) else 2 ^ 23 + m) *
    2 ^ ((max e 1 : ℤ) - 150)

/-- The infinity of a sign. -/
def infinity (neg : Bool) : Word := if neg then 0xFF800000#32 else 0x7F800000#32

/-- The zero of a sign. -/
def zero (neg : Bool) : Word := if neg then 0x80000000#32 else 0x00000000#32

/-- `v` is `x` rounded to binary32, ties to even, R151: infinity from half a unit above the greatest
finite number, else a nearest finite pattern, with an even fraction if another is as near. -/
def RoundsTo (x : ℚ) (v : Word) : Prop :=
  if 2 ^ 128 - 2 ^ 103 ≤ |x| then v = infinity (decide (x < 0))
  else FiniteBits v ∧ ∀ w, FiniteBits w → |realOf v - x| ≤ |realOf w - x| ∧
    (|realOf w - x| = |realOf v - x| → realOf w ≠ realOf v → v.toNat % 2 = 0)

/-- The quotient `x` of two numbers rounded toward zero. -/
def truncRat (x : ℚ) : ℤ := if 0 ≤ x then ⌊x⌋ else ⌈x⌉

/-- The place of a pattern that is no NaN in the order of R172: the infinities below and above every
number. -/
def placeOf (v : Word) : WithBot (WithTop ℚ) :=
  if v = infinity true then ⊥
  else if v = infinity false then ((⊤ : WithTop ℚ) : WithBot (WithTop ℚ))
  else ((realOf v : WithTop ℚ) : WithBot (WithTop ℚ))

/-! ### Classes of instructions -/

/-- The operand fields that are register indices, R282. -/
def regFields : Instr → List Word
  | .halt _ _ _ | .noop _ _ _ | .jump _ _ _ | .sstr _ _ _ => []
  | .addi d a b | .addf d a b | .subi d a b | .subf d a b | .muli d a b | .mulf d a b
  | .divi d a b | .divf d a b | .modi d a b | .modf d a b
  | .equi d a b | .equf d a b | .neqi d a b | .neqf d a b | .lthi d a b | .lthf d a b
  | .ltei d a b | .ltef d a b | .gthi d a b | .gthf d a b | .gtei d a b | .gtef d a b => [d, a, b]
  | .equs d _ _ | .neqs d _ _ | .lths d _ _ | .ltes d _ _ | .gths d _ _ | .gtes d _ _ => [d]
  | .botb r _ _ | .bofb r _ _ => [r]
  | .ldwi d _ _ | .ldwf d _ _ | .ldii d _ _ | .ldif d _ _ => [d]
  | .stwi _ r _ | .stwf _ r _ => [r]
  | .call code x _ => if code = 3 ∨ code = 7 then [] else [x]

/-- `CALL` with a code outside 0 to 7, whose operand is never looked at (R250, R292). -/
def BadCode : Instr → Prop
  | .call code _ _ => BadIndex 8 code
  | _ => False

/-- The instructions that write an integer register, R22. -/
def WritesX : Instr → Prop
  | .addi _ _ _ | .subi _ _ _ | .muli _ _ _ | .divi _ _ _ | .modi _ _ _
  | .equi _ _ _ | .neqi _ _ _ | .lthi _ _ _ | .ltei _ _ _ | .gthi _ _ _ | .gtei _ _ _
  | .equf _ _ _ | .neqf _ _ _ | .lthf _ _ _ | .ltef _ _ _ | .gthf _ _ _ | .gtef _ _ _
  | .equs _ _ _ | .neqs _ _ _ | .lths _ _ _ | .ltes _ _ _ | .gths _ _ _ | .gtes _ _ _
  | .ldwi _ _ _ | .ldii _ _ _ => True
  | .call code _ _ => code = 0 ∨ code = 2
  | _ => False

/-- The instructions that write a float register, R24. -/
def WritesF : Instr → Prop
  | .addf _ _ _ | .subf _ _ _ | .mulf _ _ _ | .divf _ _ _ | .modf _ _ _
  | .ldwf _ _ _ | .ldif _ _ _ => True
  | .call code _ _ => code = 1
  | _ => False

/-- The eighteen relational instructions with their destination field, R170. -/
def relationDest : Instr → Option Word
  | .equi d _ _ | .neqi d _ _ | .lthi d _ _ | .ltei d _ _ | .gthi d _ _ | .gtei d _ _
  | .equf d _ _ | .neqf d _ _ | .lthf d _ _ | .ltef d _ _ | .gthf d _ _ | .gtef d _ _
  | .equs d _ _ | .neqs d _ _ | .lths d _ _ | .ltes d _ _ | .gths d _ _ | .gtes d _ _ => some d
  | _ => none

/-- `CALL` with one of the codes `lo` to `hi`. -/
def IsCallIn (lo hi : Int) : Instr → Prop
  | .call code _ _ => lo ≤ code.toInt ∧ code.toInt ≤ hi
  | _ => False

end Sys2Proof.Claim

open Sys2Proof Sys2Proof.Machine Sys2Proof.Claim

/-! ### Reset, the invariant and the step -/

/-- R46, R321: what reset leaves. The values of the input bytes and of the draw counter are the
model's own and are not stated. -/
def Obligations.ResetLeavesTheGivenValues : Prop := ResetValues State.reset

/-- The state after reset has the form every state of a run has. -/
def Obligations.ResetSatisfiesInv : Prop := State.reset.Inv

/-- Every step keeps that form: canonical memories, as many slots as the table has (log entry 2),
bounded texts, the input position within the input, and a fault record that is clear exactly until a
fault is taken. -/
def Obligations.StepKeepsInv : Prop :=
  ∀ s t : State, s.Inv → step s = .next t → t.Inv

/-- Every action of the host and the environment that is not refused keeps it too, so every reachable
state has it. -/
def Obligations.ReachableStatesSatisfyInv : Prop :=
  (∀ (act : HostAction) (s t : State), s.Inv → hostAct act s = .next t → t.Inv) ∧
    ∀ s : State, Reachable s → s.Inv

/-- R126: while Running, a step at a word that decodes runs the meaning of that instruction, with
nothing around it. -/
def Obligations.StepRunsTheDecodedInstruction : Prop :=
  ∀ (s : State) (a : Fin 1024) (i : Instr), s.run = .running → Is s.pc a →
    decode (s.readInstr a) = .ok i → step s = exec i s

/-- R283: a fetch outside the instruction memory is a fault with no instruction recorded. -/
def Obligations.FetchOutsideMemoryFaults : Prop :=
  ∀ s : State, s.run = .running → BadIndex 1024 s.pc →
    ∃ t, step s = .next t ∧ EntersFault s t .instructionAddressOutOfRange none 0

/-- R121: outside Running the engine changes nothing. -/
def Obligations.StepChangesNothingUnlessRunning : Prop :=
  ∀ s : State, s.run ≠ .running → step s = .next s

/-- R102, R281: exactly the words with an opcode field of 41 or more are rejected, and the step at
such a word takes `InvalidOpcode` with the raw fields. -/
def Obligations.IllegalOpcodesAreRejectedAndFault : Prop :=
  (∀ w : InstrWord, (∃ e, decode w = .error e) ↔ 41 ≤ (w.extractLsb' 96 32).toNat) ∧
    ∀ (s : State) (a : Fin 1024), s.run = .running → Is s.pc a →
      41 ≤ ((s.readInstr a).extractLsb' 96 32).toNat →
      ∃ t, step s = .next t ∧ EntersFault s t .invalidOpcode
        (some ⟨(s.readInstr a).extractLsb' 96 32, (s.readInstr a).extractLsb' 64 32,
          (s.readInstr a).extractLsb' 32 32, (s.readInstr a).extractLsb' 0 32⟩) 0

/-! ### Encoding -/

/-- R90, R101: decoding the encoding of an instruction gives it back, for every instruction and
every value of its three fields, the unused ones included. -/
def Obligations.DecodeOfEncodeIsTheInstruction : Prop :=
  ∀ i : Instr, decode (encode i) = .ok i

/-- Encoding what a word decodes to gives the word back, so no bit is dropped. -/
def Obligations.EncodeOfDecodeIsTheWord : Prop :=
  ∀ (w : InstrWord) (i : Instr), decode w = .ok i → encode i = w

/-- R114: the worked encodings, and one word of each other family, decode to the instructions they
spell. -/
def Obligations.WrittenOutWordsDecode : Prop :=
  decode 0x00000002000000020000000000000001#128 = .ok (.addi 2 0 1) ∧
    decode 0x0000002000000003FFFFFFFE00000000#128 = .ok (.bofb 3 (-2) 0) ∧
    decode 0x00000024000000013F80000000000000#128 = .ok (.ldif 1 0x3F800000 0) ∧
    decode 0x00000000000000000000000000000000#128 = .ok (.halt 0 0 0) ∧
    decode 0x00000014000000050000000000000001#128 = .ok (.lths 5 0 1) ∧
    decode 0x00000026000000070000000200000000#128 = .ok (.stwf 7 2 0) ∧
    decode 0x00000027000000010000000000000000#128 = .ok (.sstr 1 0 0) ∧
    decode 0x00000028000000040000000200000000#128 = .ok (.call 4 2 0)

/-! ### Instructions -/

/-- R135. -/
def Obligations.HaltStopsTheRun : Prop :=
  ∀ (s : State) (u1 u2 u3 : Word),
    decode (wordOf 0 u1 u2 u3) = .ok (.halt u1 u2 u3) ∧
    ∃ t, exec (.halt u1 u2 u3) s = .next t ∧ t.run = .halted ∧ t.fr = s.fr ∧
      t.exitStatus = some 0 ∧ Frame s t { pc := s.pc } ∧ step t = .next t

/-- R136. -/
def Obligations.NoopOnlyAdvances : Prop :=
  ∀ (s : State) (u1 u2 u3 : Word),
    decode (wordOf 1 u1 u2 u3) = .ok (.noop u1 u2 u3) ∧
    ∃ t, exec (.noop u1 u2 u3) s = .next t ∧ Completes s t { pc := s.pc + 1 }

/-- R141, R142, R143. -/
def Obligations.AddSubMulWrapAndFrame : Prop :=
  IntArithRule 2 .addi (fun a b => a + b) ∧ IntArithRule 4 .subi (fun a b => a - b) ∧
    IntArithRule 6 .muli (fun a b => a * b)

/-- R144, R145. -/
def Obligations.DivModTruncateOrFault : Prop :=
  IntDivideRule 8 .divi (fun a b => a.tdiv b) ∧
    IntDivideRule 10 .modi (fun a b => a - a.tdiv b * b)

/-- R152 to R156, with the primitives of R151. -/
def Obligations.FloatArithmeticWritesItsPrimitive : Prop :=
  FloatArithRule 3 .addf fadd32 ∧ FloatArithRule 5 .subf fsub32 ∧ FloatArithRule 7 .mulf fmul32 ∧
    FloatArithRule 9 .divf fdiv32 ∧ FloatArithRule 11 .modf fmod32

/-- R174 to R179, on the signed values (R171). -/
def Obligations.IntRelationsWriteTheirTruth : Prop :=
  RegRelationRule 12 .equi State.readX (fun v w => v = w) ∧
    RegRelationRule 15 .neqi State.readX (fun v w => v ≠ w) ∧
    RegRelationRule 18 .lthi State.readX (fun v w => v.toInt < w.toInt) ∧
    RegRelationRule 21 .ltei State.readX (fun v w => v.toInt ≤ w.toInt) ∧
    RegRelationRule 24 .gthi State.readX (fun v w => v.toInt > w.toInt) ∧
    RegRelationRule 27 .gtei State.readX (fun v w => v.toInt ≥ w.toInt)

/-- R180 to R185, with the predicates of R172. -/
def Obligations.FloatRelationsWriteTheirTruth : Prop :=
  RegRelationRule 13 .equf State.readF (fun v w => feq32 v w = true) ∧
    RegRelationRule 16 .neqf State.readF (fun v w => feq32 v w = false) ∧
    RegRelationRule 19 .lthf State.readF (fun v w => flt32 v w = true) ∧
    RegRelationRule 22 .ltef State.readF (fun v w => fle32 v w = true) ∧
    RegRelationRule 25 .gthf State.readF (fun v w => flt32 w v = true) ∧
    RegRelationRule 28 .gtef State.readF (fun v w => fle32 w v = true)

/-- R186 to R191, with `cmp_text` of R173. -/
def Obligations.StringRelationsWriteTheirTruth : Prop :=
  TextRelationRule 14 .equs (fun c => c = 0) ∧ TextRelationRule 17 .neqs (fun c => c ≠ 0) ∧
    TextRelationRule 20 .lths (fun c => c < 0) ∧ TextRelationRule 23 .ltes (fun c => c ≤ 0) ∧
    TextRelationRule 26 .gths (fun c => c > 0) ∧ TextRelationRule 29 .gtes (fun c => c ≥ 0)

/-- R201, R206: the jump itself never faults; the step after it faults when the target is outside the
instruction memory, with the target as the recorded `pc`. -/
def Obligations.JumpGoesAndTheNextFetchChecks : Prop :=
  ∀ (s : State) (addr u2 u3 : Word),
    decode (wordOf 30 addr u2 u3) = .ok (.jump addr u2 u3) ∧
    ∃ t, exec (.jump addr u2 u3) s = .next t ∧ Completes s t { pc := addr } ∧
      (s.run = .running → BadIndex 1024 addr →
        ∃ t', step t = .next t' ∧ EntersFault t t' .instructionAddressOutOfRange none 0 ∧
          t'.fr.pc = addr)

/-- R202, R203. -/
def Obligations.BranchesReadABooleanExactly : Prop :=
  BranchRule 31 .botb 1 0 ∧ BranchRule 32 .bofb 0 1

/-- R221, R222: both loads take the cell's 32 bits as they are. -/
def Obligations.LoadsTakeTheCellUnchanged : Prop :=
  LoadRule 33 .ldwi State.readX (fun pc d => { pc := pc, xs := fun r => r = d }) ∧
    LoadRule 34 .ldwf State.readF (fun pc d => { pc := pc, fs := fun r => r = d })

/-- R223, R224: both take the whole field unchanged. -/
def Obligations.ConstantsTakeTheFieldUnchanged : Prop :=
  ConstantRule 35 .ldii State.readX (fun pc d => { pc := pc, xs := fun r => r = d }) ∧
    ConstantRule 36 .ldif State.readF (fun pc d => { pc := pc, fs := fun r => r = d })

/-- R225, R226. -/
def Obligations.StoresReplaceOneCell : Prop :=
  StoreRule 37 .stwi State.readX ∧ StoreRule 38 .stwf State.readF

/-- R240: pool index, slot number and length are checked in this order, then slot `k` receives pool
entry `k`. -/
def Obligations.SstrCopiesThePoolEntry : Prop :=
  ∀ (s : State) (k u2 u3 : Word),
    decode (wordOf 39 k u2 u3) = .ok (.sstr k u2 u3) ∧
    (∀ n : Fin s.pool.length, Is k n → n.val < s.strTable.length → s.pool[n].length ≤ 128 →
      ∃ t, exec (.sstr k u2 u3) s = .next t ∧ t.strTable[n.val]? = some s.pool[n] ∧
        Completes s t { pc := s.pc + 1, slots := fun j => j = n.val }) ∧
    (BadIndex s.pool.length k ∨ BadIndex s.strTable.length k →
      Raises (.sstr k u2 u3) s .stringIndexOutOfRange (fieldsOf 39 k u2 u3)) ∧
    (∀ n : Fin s.pool.length, Is k n → n.val < s.strTable.length → 128 < s.pool[n].length →
      Raises (.sstr k u2 u3) s .stringTooLong (fieldsOf 39 k u2 u3))

/-! ### The syscall unit -/

/-- R269: `InvalidSyscall` is raised exactly for the codes outside 0 to 7, whatever the operand. -/
def Obligations.OnlyEightServiceCodes : Prop :=
  ∀ (s : State) (code x u3 : Word), s.run ≠ .faulted →
    (BadIndex 8 code →
      Raises (.call code x u3) s .invalidSyscall (fieldsOf 40 code x u3)) ∧
    (¬ BadIndex 8 code → ∀ t, exec (.call code x u3) s = .next t → t.run = .faulted →
      t.fr.kind ≠ some .invalidSyscall)

/-- R255. -/
def Obligations.ReadIntService : Prop :=
  ReadRegRule 0 parseInt State.readX
    (fun pc r n => { pc := pc, xs := fun q => q = r, consumed := n })

/-- R256. -/
def Obligations.ReadFloatService : Prop :=
  ReadRegRule 1 parseFloat State.readF
    (fun pc r n => { pc := pc, fs := fun q => q = r, consumed := n })

/-- R257, with the four tokens of R266. -/
def Obligations.ReadBoolService : Prop :=
  ReadRegRule 2
    (fun t =>
      if t = [0x31] ∨ t = [0x74, 0x72, 0x75, 0x65] then some 1
      else if t = [0x30] ∨ t = [0x66, 0x61, 0x6C, 0x73, 0x65] then some 0 else none)
    State.readX (fun pc r n => { pc := pc, xs := fun q => q = r, consumed := n })

/-- R258: a token of at most 128 bytes replaces the slot; a longer one is rejected. -/
def Obligations.ReadStringService : Prop :=
  ∀ (s : State) (x u3 : Word),
    decode (wordOf 40 3 x u3) = .ok (.call 3 x u3) ∧
    (∀ k : Fin s.strTable.length, Is x k →
      (∀ w n, TokenIs s w n → w.length ≤ 128 →
        ∃ t, exec (.call 3 x u3) s = .next t ∧ t.strTable[k.val]? = some w ∧
          Completes s t { pc := s.pc + 1, slots := fun j => j = k.val, consumed := n }) ∧
      (∀ w n, TokenIs s w n → 128 < w.length →
        Raises (.call 3 x u3) s .stringTooLong (fieldsOf 40 3 x u3) n) ∧
      ∀ n, NoToken s n → Raises (.call 3 x u3) s .ioParseError (fieldsOf 40 3 x u3) n) ∧
    (BadIndex s.strTable.length x →
      Raises (.call 3 x u3) s .stringIndexOutOfRange (fieldsOf 40 3 x u3))

/-- R267, R128: while no whole token has arrived and the stream has not ended, a read service changes
nothing, `pc` included. The engine is blocked exactly at such a read, and a step of a Running engine
that changes nothing is that of a blocked read or of an instruction that goes to its own address, so
no other instruction waits. That the waiting is a step to the same state is the model's form of it
(log entry 8). -/
def Obligations.ReadsWaitWithoutEffect : Prop :=
  (∀ (s : State) (code x u3 : Word), MustWait s →
    (code = 0 ∨ code = 1 ∨ code = 2 → (∃ r : Fin 32, Is x r) →
      exec (.call code x u3) s = .next s) ∧
    (code = 3 → (∃ k : Fin s.strTable.length, Is x k) → exec (.call code x u3) s = .next s)) ∧
  (∀ s : State, s.Waiting ↔ s.run = .running ∧ AtStartedRead s ∧ MustWait s) ∧
  ∀ s : State, s.run = .running →
    (step s = .next s ↔ s.Waiting ∨ ∃ a : Fin 1024, Is s.pc a ∧ LoopsToItself s a)

/-- R259, with `dec` of R262. -/
def Obligations.WriteIntService : Prop := WriteRegRule 4 State.readX dec

/-- R260, for the open rendering function, whatever it is (log entry 4). -/
def Obligations.WriteFloatService : Prop := WriteRegRule 5 State.readF Config.renderFloat

/-- R261. -/
def Obligations.WriteBoolService : Prop :=
  ∀ (s : State) (x u3 : Word),
    decode (wordOf 40 6 x u3) = .ok (.call 6 x u3) ∧
    (∀ r : Fin 32, Is x r → s.readX r = 1 →
      ∃ t, exec (.call 6 x u3) s = .next t ∧
        Completes s t { pc := s.pc + 1, emitted := [0x74, 0x72, 0x75, 0x65, 0x0A] }) ∧
    (∀ r : Fin 32, Is x r → s.readX r = 0 →
      ∃ t, exec (.call 6 x u3) s = .next t ∧
        Completes s t { pc := s.pc + 1, emitted := [0x66, 0x61, 0x6C, 0x73, 0x65, 0x0A] }) ∧
    (∀ r : Fin 32, Is x r → s.readX r ≠ 1 → s.readX r ≠ 0 →
      Raises (.call 6 x u3) s .invalidBooleanValue (fieldsOf 40 6 x u3)) ∧
    (BadIndex 32 x → Raises (.call 6 x u3) s .operandOutOfRange (fieldsOf 40 6 x u3))

/-- R263. -/
def Obligations.WriteStringService : Prop :=
  ∀ (s : State) (x u3 : Word),
    decode (wordOf 40 7 x u3) = .ok (.call 7 x u3) ∧
    (∀ k : Fin s.strTable.length, Is x k →
      ∃ t, exec (.call 7 x u3) s = .next t ∧
        Completes s t { pc := s.pc + 1, emitted := s.strTable[k] ++ [0x0A] }) ∧
    (BadIndex s.strTable.length x →
      Raises (.call 7 x u3) s .stringIndexOutOfRange (fieldsOf 40 7 x u3))

/-! ### Tokens and literals -/

/-- R253, R254: the model's `next_token()` returns a token, reports the end, or waits exactly when
the rule says so. -/
def Obligations.NextTokenAsSpecified : Prop :=
  ∀ s : State, (∀ w n, s.nextToken = .token w n ↔ TokenIs s w n) ∧
    (∀ n, s.nextToken = .ended n ↔ NoToken s n) ∧ (s.nextToken = .blocked ↔ MustWait s)

/-- R267: what a read returns does not depend on when the bytes arrive: once a token is complete,
bytes or an end mark that come later do not change it. -/
def Obligations.LaterInputChangesNoToken : Prop :=
  ∀ (early late : List Byte) (e : Bool) (w : Text) (n : Nat),
    scanToken false early = .token w n → scanToken e (early ++ late) = .token w n

/-- R264: the integer literals and their values. -/
def Obligations.IntegerLiteralsExactly : Prop :=
  ∀ (t : Text) (v : Word), parseInt t = some v ↔
    ∃ (sgn ds : Text) (neg : Bool), Sign sgn neg ∧ ds ≠ [] ∧ (∀ d ∈ ds, Digit d) ∧
      t = sgn ++ ds ∧ v.toInt = if neg then -(decimalValue ds : Int) else decimalValue ds

/-- R265: a floating-point literal reads as the nearest binary32 with the sign of the literal, and
every other token is malformed. `PARSE_FLOAT` is the decided function, which the model computes with two
short cuts (log entry 5). -/
def Obligations.FloatLiteralsAreCorrectlyRounded : Prop :=
  (∀ (t : Text) (neg : Bool) (m : Nat) (e : Int), FloatLiteral t neg m e →
    ∃ v, parseFloat t = some v ∧ v.getLsbD 31 = neg ∧
      RoundsTo ((if neg then -1 else 1) * m * (10 : ℚ) ^ e) v) ∧
    ∀ t : Text, (¬ ∃ neg m e, FloatLiteral t neg m e) → parseFloat t = none

/-- R262: the canonical decimal text, at most 11 characters, which reads back as the value. -/
def Obligations.DecimalTextIsCanonicalAndReadsBack : Prop :=
  ∀ v : Word,
    dec v = (if v.toInt < 0 then [0x2D] else []) ++
      (if v = 0 then [0x30]
        else (Nat.digits 10 v.toInt.natAbs).reverse.map fun d => BitVec.ofNat 8 (0x30 + d)) ∧
    (dec v).length ≤ 11 ∧ parseInt (dec v) = some v

/-- R173: text comparison by the first difference, else by length; it is 0 only for equal texts. -/
def Obligations.TextOrderIsLexicographic : Prop :=
  ∀ s t : Text,
    (∀ (j : Nat) (hs : j < s.length) (ht : j < t.length), s.take j = t.take j → s[j] ≠ t[j] →
      cmpText s t = if s[j].toNat < t[j].toNat then -1 else 1) ∧
    (s <+: t → s.length < t.length → cmpText s t = -1) ∧
    (t <+: s → t.length < s.length → cmpText s t = 1) ∧ (cmpText s t = 0 ↔ s = t)

/-! ### Float primitives -/

/-- The special cases of the table of R151 and of the paragraph on `fmod32`, with the signs and the
infinities that IEEE-754 gives the cases the table leaves to it: the sum of two positive zeros, the
product of an infinity, and the sign of every quotient that is no NaN. -/
def Obligations.FloatSpecialCases : Prop :=
  (∀ a b, isNaN a = true ∨ isNaN b = true → fadd32 a b = .nan ∧ fsub32 a b = .nan ∧
      fmul32 a b = .nan ∧ fdiv32 a b = .nan ∧ fmod32 a b = .nan) ∧
    (∀ p q, p ≠ q → fadd32 (infinity p) (infinity q) = .nan) ∧
    (∀ p, fadd32 (infinity p) (infinity p) = .num (infinity p)) ∧
    (∀ p x, FiniteBits x → fadd32 (infinity p) x = .num (infinity p) ∧
      fadd32 x (infinity p) = .num (infinity p)) ∧
    (∀ x, FiniteBits x → fadd32 x (x ^^^ 0x80000000#32) = .num (zero false)) ∧
    fadd32 (zero true) (zero true) = .num (zero true) ∧
    fadd32 (zero false) (zero false) = .num (zero false) ∧
    (∀ a b, isNaN b = false → fsub32 a b = fadd32 a (b ^^^ 0x80000000#32)) ∧
    (∀ p q, fmul32 (zero p) (infinity q) = .nan ∧ fmul32 (infinity q) (zero p) = .nan) ∧
    (∀ a b, isNaN a = false → isNaN b = false → ¬ (isZero a = true ∧ isInf b = true) →
      ¬ (isInf a = true ∧ isZero b = true) →
      ∃ v, fmul32 a b = .num v ∧ v.getLsbD 31 = (a.getLsbD 31 != b.getLsbD 31)) ∧
    (∀ p x, isNaN x = false → isZero x = false →
      fmul32 (infinity p) x = .num (infinity (p != x.getLsbD 31)) ∧
      fmul32 x (infinity p) = .num (infinity (x.getLsbD 31 != p))) ∧
    (∀ a b v, fdiv32 a b = .num v → v.getLsbD 31 = (a.getLsbD 31 != b.getLsbD 31)) ∧
    (∀ p x, FiniteBits x → isZero x = false →
      fdiv32 x (zero p) = .num (infinity (x.getLsbD 31 != p))) ∧
    (∀ p q, fdiv32 (zero p) (zero q) = .nan ∧ fdiv32 (infinity p) (infinity q) = .nan) ∧
    (∀ p x, FiniteBits x → fdiv32 x (infinity p) = .num (zero (x.getLsbD 31 != p)) ∧
      fdiv32 (infinity p) x = .num (infinity (p != x.getLsbD 31))) ∧
    (∀ p x, FiniteBits x → isZero x = false →
      fdiv32 (zero p) x = .num (zero (p != x.getLsbD 31))) ∧
    (∀ p b, fmod32 (infinity p) b = .nan) ∧ (∀ p a, fmod32 a (zero p) = .nan) ∧
    (∀ p a, FiniteBits a → fmod32 a (infinity p) = .num a) ∧
    (∀ p b, isNaN b = false → isZero b = false → fmod32 (zero p) b = .num (zero p))

/-- R151: sums, differences, products and quotients of finite numbers are the exact real results
rounded to binary32, ties to even. -/
def Obligations.FloatArithmeticIsCorrectlyRounded : Prop :=
  ∀ a b : Word, FiniteBits a → FiniteBits b →
    (∃ v, fadd32 a b = .num v ∧ RoundsTo (realOf a + realOf b) v) ∧
    (∃ v, fsub32 a b = .num v ∧ RoundsTo (realOf a - realOf b) v) ∧
    (∃ v, fmul32 a b = .num v ∧ RoundsTo (realOf a * realOf b) v) ∧
    (realOf b ≠ 0 → ∃ v, fdiv32 a b = .num v ∧ RoundsTo (realOf a / realOf b) v)

/-- R151: the float remainder of finite numbers is exact, truncated, with the sign of the dividend
and a magnitude less than the divisor's. -/
def Obligations.FloatRemainderIsExact : Prop :=
  ∀ a b : Word, FiniteBits a → FiniteBits b → realOf b ≠ 0 →
    ∃ v, fmod32 a b = .num v ∧ FiniteBits v ∧ v.getLsbD 31 = a.getLsbD 31 ∧
      realOf v = realOf a - truncRat (realOf a / realOf b) * realOf b ∧
      |realOf v| < |realOf b|

/-- R172: the comparison predicates. -/
def Obligations.FloatComparisonIsByValue : Prop :=
  ∀ a b : Word,
    (isNaN a = true ∨ isNaN b = true →
      feq32 a b = false ∧ flt32 a b = false ∧ fle32 a b = false) ∧
    (isNaN a = false → isNaN b = false →
      (feq32 a b = true ↔ placeOf a = placeOf b) ∧ (flt32 a b = true ↔ placeOf a < placeOf b) ∧
        (fle32 a b = true ↔ placeOf a ≤ placeOf b))

/-- R158: the draws of NaN results range over the quiet NaNs, each of them and nothing else. That the
bits come from a draw is the model's form of the open value (log entry 3). -/
def Obligations.NanDrawsAreTheQuietNaNs : Prop :=
  ∀ v : Word, (∃ d, quietNaN d = v) ↔ QuietNaN v

/-! ### Whole-machine rules -/

/-- R25, R26: the two banks are separate storage and each register holds what was written to it. -/
def Obligations.RegistersHoldWhatIsWritten : Prop :=
  ∀ (s : State) (i : Fin 32) (v : Word),
    (s.writeX i v).readX i = v ∧ (s.writeF i v).readF i = v ∧
    (∀ j, j ≠ i → (s.writeX i v).readX j = s.readX j ∧ (s.writeF i v).readF j = s.readF j) ∧
    ∀ j, (s.writeX i v).readF j = s.readF j ∧ (s.writeF i v).readX j = s.readX j

/-- R62, R63: what either store puts into a cell, either load takes out again, bit for bit, and no
other cell changes. -/
def Obligations.StoreThenLoadMovesTheSameBits : Prop :=
  ∀ (s : State) (addr src dst u v : Word) (a : Fin 1024) (p q : Fin 32),
    Memory.wf 1024 s.dataMem = true → Is addr a → Is src p → Is dst q →
    (∃ t, exec (.stwi addr src u) s = .next t ∧
      (∀ c, c ≠ a.val → t.readData c = s.readData c) ∧
      (∃ t', exec (.ldwi dst addr v) t = .next t' ∧ t'.readX q = s.readX p) ∧
      ∃ t', exec (.ldwf dst addr v) t = .next t' ∧ t'.readF q = s.readX p) ∧
    ∃ t, exec (.stwf addr src u) s = .next t ∧
      (∀ c, c ≠ a.val → t.readData c = s.readData c) ∧
      (∃ t', exec (.ldwf dst addr v) t = .next t' ∧ t'.readF q = s.readF p) ∧
      ∃ t', exec (.ldwi dst addr v) t = .next t' ∧ t'.readX q = s.readF p

/-- R293, R295: whatever the instruction, a step that takes a fault changes nothing but the fault
record, the run state and, for `IOParseError` and `StringTooLong`, the input position. -/
def Obligations.FaultsArePrecise : Prop :=
  ∀ s t : State, s.run = .running → step s = .next t → t.run = .faulted →
    ∃ k q n, EntersFault s t k q n ∧
      (n ≠ 0 → k = .ioParseError ∨ k = .stringTooLong) ∧
      (q = none ↔ k = .instructionAddressOutOfRange) ∧
      ∀ r, q = some r → ∃ a : Fin 1024, Is s.pc a ∧
        s.readInstr a = r.op ++ r.o1 ++ r.o2 ++ r.o3

/-- R120: all the transitions of the run state. R320: reset is accepted in every state and leaves the
values of R46; nothing else leaves Halted or Faulted. That reset also discards the input (log entry
10) and that the draws of open values go on (log entry 3) are the model's choice. -/
def Obligations.RunStateTransitions : Prop :=
  (∀ s t : State, step s = .next t →
    t.run = s.run ∨
    (s.run = .running ∧ t.run = .halted ∧
      ∃ (a : Fin 1024) (u1 u2 u3 : Word), Is s.pc a ∧
        decode (s.readInstr a) = .ok (.halt u1 u2 u3)) ∨
    (s.run = .running ∧ t.run = .faulted ∧ t.fr.kind ≠ none)) ∧
  (∀ (act : HostAction) (s t : State), hostAct act s = .next t →
    t.run = s.run ∨ (act = .reset ∧ t.run = .loaded) ∨
    (act = .start ∧ s.run = .loaded ∧ t.run = .running)) ∧
  (∀ s : State, ∃ t, hostAct .reset s = .next t ∧ ResetValues t ∧
    t.inBytes = [] ∧ t.inEnded = false ∧ t.nanDraws = s.nanDraws) ∧
  (∀ s : State, s.Ended → step s = .next s ∧
    ∀ (act : HostAction) (t : State), hostAct act s = .next t → t.run = s.run ∨ act = .reset) ∧
  ∀ s : State, s.run = .loaded → ∃ t, hostAct .start s = .next t ∧ t.run = .running

/-- R32, R70, R36: no number of steps changes the instruction memory or the constant pool, so every
fetch of an address returns the same word. R34: nor the number of slots (log entry 2). -/
def Obligations.InstructionsAndPoolNeverChange : Prop :=
  ∀ (k : Nat) (s t : State), Host.Core.run Sys2Proof.core k s = .next t →
    (∀ a, t.readInstr a = s.readInstr a) ∧ t.pool = s.pool ∧
      t.strTable.length = s.strTable.length

/-- R22, R24: only the listed instructions write a register of either bank. -/
def Obligations.OnlyListedInstructionsWriteRegisters : Prop :=
  ∀ (i : Instr) (s t : State), exec i s = .next t →
    (¬ WritesX i → ∀ r, t.readX r = s.readX r) ∧ (¬ WritesF i → ∀ r, t.readF r = s.readF r)

/-- R44, R45: `OUT` only grows and only by `CALL` codes 4 to 7; the input position only advances and
only by `CALL` codes 0 to 3; no instruction changes the supplied bytes. -/
def Obligations.StreamsMoveOnlyByCall : Prop :=
  ∀ (i : Instr) (s t : State), exec i s = .next t →
    (∃ added, t.out = s.out ++ added ∧ (added ≠ [] → IsCallIn 4 7 i)) ∧
    s.inPos ≤ t.inPos ∧ (t.inPos ≠ s.inPos → IsCallIn 0 3 i) ∧
    t.inBytes = s.inBytes ∧ t.inEnded = s.inEnded

/-- R192: a relational instruction that completes leaves 0 or 1 in its destination, so that
either branch on it, and `CALL 6` of it, completes without a fault. -/
def Obligations.RelationsLeaveABoolean : Prop :=
  ∀ (i : Instr) (s t : State) (o : Word) (d : Fin 32), relationDest i = some o → Is o d →
    s.run = .running → exec i s = .next t → t.run = .running →
    (t.readX d = 0 ∨ t.readX d = 1) ∧
      (∀ off u, ∃ t', exec (.botb o off u) t = .next t' ∧ t'.run = .running) ∧
      (∀ off u, ∃ t', exec (.bofb o off u) t = .next t' ∧ t'.run = .running) ∧
      ∀ u, ∃ t', exec (.call 6 o u) t = .next t' ∧ t'.run = .running

/-- R204: for the address of a fetched instruction the wrapped branch target is in the instruction
memory exactly when the true sum is, and is then that sum. -/
def Obligations.WrappedBranchTargetKeepsTheVerdict : Prop :=
  ∀ pc off : Word, ¬ BadIndex 1024 pc →
    (¬ BadIndex 1024 (branchTarget pc off) ↔
      0 ≤ pc.toInt + off.toInt ∧ pc.toInt + off.toInt < 1024) ∧
    (¬ BadIndex 1024 (branchTarget pc off) → (branchTarget pc off).toInt = pc.toInt + off.toInt)

/-- R325, R327: `start` is accepted only in Loaded and changes `RUN` alone; the completion status
(R39), the codes of `RUN` (R37) and the codes of the fault kinds in `FR.kind` (R38, R280) as the host
reads them. -/
def Obligations.StartAndStatus : Prop :=
  ∀ s : State,
    (s.run = .loaded → hostAct .start s = .next { s with run := .running }) ∧
    (s.run ≠ .loaded → hostAct .start s = .next s) ∧
    (s.run = .loaded ∨ s.run = .running → s.exitStatus = none) ∧
    (s.run = .halted → s.exitStatus = some 0) ∧ (s.run = .faulted → s.exitStatus = some 1) ∧
    (s.run = .loaded → s.run.code = 0) ∧ (s.run = .running → s.run.code = 1) ∧
    (s.run = .halted → s.run.code = 2) ∧ (s.run = .faulted → s.run.code = 3) ∧
    (s.fr.kind = none → s.fr.kindCode = 0) ∧
    (s.fr.kind = some .invalidOpcode → s.fr.kindCode = 1) ∧
    (s.fr.kind = some .operandOutOfRange → s.fr.kindCode = 2) ∧
    (s.fr.kind = some .instructionAddressOutOfRange → s.fr.kindCode = 3) ∧
    (s.fr.kind = some .dataAddressOutOfRange → s.fr.kindCode = 4) ∧
    (s.fr.kind = some .stringIndexOutOfRange → s.fr.kindCode = 5) ∧
    (s.fr.kind = some .stringTooLong → s.fr.kindCode = 6) ∧
    (s.fr.kind = some .divisionByZero → s.fr.kindCode = 7) ∧
    (s.fr.kind = some .invalidBooleanValue → s.fr.kindCode = 8) ∧
    (s.fr.kind = some .invalidSyscall → s.fr.kindCode = 9) ∧
    (s.fr.kind = some .ioParseError → s.fr.kindCode = 10)

/-- R323, R324, R326: while Loaded and within the bounds, each write of the loader replaces the word,
cell, slot or pool it names and nothing else; in every other run state each is refused (the model's
form of an action that never happens, log entry 12). R44: the environment appends to `IN` and marks its
end in any run state. -/
def Obligations.LoaderAndInputActionsWriteWhatTheyName : Prop :=
  (∀ s : State, s.run = .loaded →
    (∀ (a : Nat) (w : InstrWord), a < 1024 → Memory.wf 1024 s.instrMem = true →
      ∃ t, hostAct (.writeInstr a w) s = .next t ∧ t = { s with instrMem := t.instrMem } ∧
        t.readInstr a = w ∧ ∀ b, b ≠ a → t.readInstr b = s.readInstr b) ∧
    (∀ (a : Nat) (v : Word), a < 1024 → Memory.wf 1024 s.dataMem = true →
      ∃ t, hostAct (.writeData a v) s = .next t ∧ t = { s with dataMem := t.dataMem } ∧
        t.readData a = v ∧ ∀ b, b ≠ a → t.readData b = s.readData b) ∧
    (∀ (k : Nat) (u : Text), k < s.strTable.length → u.length ≤ 128 →
      ∃ t, hostAct (.writeSlot k u) s = .next t ∧ t = { s with strTable := t.strTable } ∧
        t.strTable.length = s.strTable.length ∧ t.strTable[k]? = some u ∧
        ∀ j, j ≠ k → t.strTable[j]? = s.strTable[j]?) ∧
    ∀ entries, hostAct (.setPool entries) s = .next { s with pool := entries }) ∧
  (∀ (s : State) (a : Nat) (w : InstrWord) (v : Word) (u : Text) (entries : List Text),
    s.run ≠ .loaded →
    hostAct (.writeInstr a w) s = .refused .hostWriteNotLoaded ∧
      hostAct (.writeData a v) s = .refused .hostWriteNotLoaded ∧
      hostAct (.writeSlot a u) s = .refused .hostWriteNotLoaded ∧
      hostAct (.setPool entries) s = .refused .hostWriteNotLoaded) ∧
  ∀ s : State,
    (∀ bytes, s.inEnded = false →
      hostAct (.appendInput bytes) s = .next { s with inBytes := s.inBytes ++ bytes }) ∧
    hostAct .endInput s = .next { s with inEnded := true }

/-- R282: `OperandOutOfRange` is raised exactly when a register-index field is outside 0 to 31, for
every instruction, except behind a bad service code (R292). -/
def Obligations.OperandOutOfRangeExactly : Prop :=
  ∀ (i : Instr) (s t : State), s.run ≠ .faulted → exec i s = .next t →
    ((t.run = .faulted ∧ t.fr.kind = some .operandOutOfRange) ↔
      (¬ BadCode i ∧ ∃ o ∈ regFields i, BadIndex 32 o))

/-- R94: an instruction whose operands lie in their legal ranges never takes a range fault, where the
table has its capacity; `SSTR` may still name an entry the loader did not supply. -/
def Obligations.WellFormedInstructionsTakeNoRangeFault : Prop :=
  ∀ (i : Instr) (s t : State), i.WellFormed = true → s.strTable.length = Config.strCapacity →
    s.run ≠ .faulted → exec i s = .next t → t.run = .faulted →
    t.fr.kind ≠ some .operandOutOfRange ∧ t.fr.kind ≠ some .dataAddressOutOfRange ∧
      t.fr.kind ≠ some .invalidSyscall ∧
      (t.fr.kind = some .stringIndexOutOfRange → ∃ k u2 u3, i = .sstr k u2 u3)

/-- R129: a jump to its own address and a taken branch with offset 0 hang without a fault, and no
number of steps leaves the state. -/
def Obligations.SelfLoopsHang : Prop :=
  ∀ (s : State) (a : Fin 1024) (n : Nat), s.run = .running → Is s.pc a → LoopsToItself s a →
    Host.Core.run Sys2Proof.core n s = .next s
end

