-- ==== Sys2Proof/Laws/Decode.lean ====
section
/-! SUPPORT. Splitting a word into its fields and joining them again (`spec/30_encoding.md` R90,
R91). -/

namespace Sys2Proof

theorem splitWord_joinFields (q : Fields) : splitWord (joinFields q) = q := by
  obtain ⟨op, o1, o2, o3⟩ := q
  unfold splitWord joinFields
  congr 1 <;> (apply BitVec.eq_of_getLsbD_eq; intro j hj; simp; grind)

theorem joinFields_splitWord (w : InstrWord) : joinFields (splitWord w) = w := by
  unfold splitWord joinFields
  apply BitVec.eq_of_getLsbD_eq
  intro j hj
  simp
  grind

/-- Whatever the map from fields to instructions accepts, the map back gives the fields. -/
theorem instrOfFields_fields {q : Fields} {i : Instr} (h : instrOfFields q = .ok i) :
    i.fields = q := by
  obtain ⟨op, o1, o2, o3⟩ := q
  have hop : op = BitVec.ofNat 32 op.toNat := by simp
  unfold instrOfFields at h
  simp only at h
  split at h <;> (try cases h) <;> (rename_i he; rw [he] at hop; subst hop; rfl)

end Sys2Proof
end

