-- ==== Sys2Proof/Laws/State.lean ====
section
/-! SUPPORT. What each state update does to each field. -/

namespace Sys2Proof.Machine

/-! ### `writeX` -/

@[simp] theorem State.writeX_pc (s : State) (i : Fin 32) (v : Word) :
    (s.writeX i v).pc = s.pc := rfl
@[simp] theorem State.writeX_instrMem (s : State) (i : Fin 32) (v : Word) :
    (s.writeX i v).instrMem = s.instrMem := rfl
@[simp] theorem State.writeX_dataMem (s : State) (i : Fin 32) (v : Word) :
    (s.writeX i v).dataMem = s.dataMem := rfl
@[simp] theorem State.writeX_strTable (s : State) (i : Fin 32) (v : Word) :
    (s.writeX i v).strTable = s.strTable := rfl
@[simp] theorem State.writeX_pool (s : State) (i : Fin 32) (v : Word) :
    (s.writeX i v).pool = s.pool := rfl
@[simp] theorem State.writeX_run (s : State) (i : Fin 32) (v : Word) :
    (s.writeX i v).run = s.run := rfl
@[simp] theorem State.writeX_fr (s : State) (i : Fin 32) (v : Word) :
    (s.writeX i v).fr = s.fr := rfl
@[simp] theorem State.writeX_inBytes (s : State) (i : Fin 32) (v : Word) :
    (s.writeX i v).inBytes = s.inBytes := rfl
@[simp] theorem State.writeX_inPos (s : State) (i : Fin 32) (v : Word) :
    (s.writeX i v).inPos = s.inPos := rfl
@[simp] theorem State.writeX_inEnded (s : State) (i : Fin 32) (v : Word) :
    (s.writeX i v).inEnded = s.inEnded := rfl
@[simp] theorem State.writeX_out (s : State) (i : Fin 32) (v : Word) :
    (s.writeX i v).out = s.out := rfl
@[simp] theorem State.writeX_nanDraws (s : State) (i : Fin 32) (v : Word) :
    (s.writeX i v).nanDraws = s.nanDraws := rfl

/-! ### `writeF` -/

@[simp] theorem State.writeF_pc (s : State) (i : Fin 32) (v : Word) :
    (s.writeF i v).pc = s.pc := rfl
@[simp] theorem State.writeF_instrMem (s : State) (i : Fin 32) (v : Word) :
    (s.writeF i v).instrMem = s.instrMem := rfl
@[simp] theorem State.writeF_dataMem (s : State) (i : Fin 32) (v : Word) :
    (s.writeF i v).dataMem = s.dataMem := rfl
@[simp] theorem State.writeF_strTable (s : State) (i : Fin 32) (v : Word) :
    (s.writeF i v).strTable = s.strTable := rfl
@[simp] theorem State.writeF_pool (s : State) (i : Fin 32) (v : Word) :
    (s.writeF i v).pool = s.pool := rfl
@[simp] theorem State.writeF_run (s : State) (i : Fin 32) (v : Word) :
    (s.writeF i v).run = s.run := rfl
@[simp] theorem State.writeF_fr (s : State) (i : Fin 32) (v : Word) :
    (s.writeF i v).fr = s.fr := rfl
@[simp] theorem State.writeF_inBytes (s : State) (i : Fin 32) (v : Word) :
    (s.writeF i v).inBytes = s.inBytes := rfl
@[simp] theorem State.writeF_inPos (s : State) (i : Fin 32) (v : Word) :
    (s.writeF i v).inPos = s.inPos := rfl
@[simp] theorem State.writeF_inEnded (s : State) (i : Fin 32) (v : Word) :
    (s.writeF i v).inEnded = s.inEnded := rfl
@[simp] theorem State.writeF_out (s : State) (i : Fin 32) (v : Word) :
    (s.writeF i v).out = s.out := rfl
@[simp] theorem State.writeF_nanDraws (s : State) (i : Fin 32) (v : Word) :
    (s.writeF i v).nanDraws = s.nanDraws := rfl

/-! ### `writeData` -/

@[simp] theorem State.writeData_regs (s : State) (a : Nat) (v : Word) :
    (s.writeData a v).regs = s.regs := rfl
@[simp] theorem State.writeData_pc (s : State) (a : Nat) (v : Word) :
    (s.writeData a v).pc = s.pc := rfl
@[simp] theorem State.writeData_instrMem (s : State) (a : Nat) (v : Word) :
    (s.writeData a v).instrMem = s.instrMem := rfl
@[simp] theorem State.writeData_dataMem (s : State) (a : Nat) (v : Word) :
    (s.writeData a v).dataMem = Memory.write a v s.dataMem := rfl
@[simp] theorem State.writeData_strTable (s : State) (a : Nat) (v : Word) :
    (s.writeData a v).strTable = s.strTable := rfl
@[simp] theorem State.writeData_pool (s : State) (a : Nat) (v : Word) :
    (s.writeData a v).pool = s.pool := rfl
@[simp] theorem State.writeData_run (s : State) (a : Nat) (v : Word) :
    (s.writeData a v).run = s.run := rfl
@[simp] theorem State.writeData_fr (s : State) (a : Nat) (v : Word) :
    (s.writeData a v).fr = s.fr := rfl
@[simp] theorem State.writeData_inBytes (s : State) (a : Nat) (v : Word) :
    (s.writeData a v).inBytes = s.inBytes := rfl
@[simp] theorem State.writeData_inPos (s : State) (a : Nat) (v : Word) :
    (s.writeData a v).inPos = s.inPos := rfl
@[simp] theorem State.writeData_inEnded (s : State) (a : Nat) (v : Word) :
    (s.writeData a v).inEnded = s.inEnded := rfl
@[simp] theorem State.writeData_out (s : State) (a : Nat) (v : Word) :
    (s.writeData a v).out = s.out := rfl
@[simp] theorem State.writeData_nanDraws (s : State) (a : Nat) (v : Word) :
    (s.writeData a v).nanDraws = s.nanDraws := rfl

/-! ### `writeInstr` -/

@[simp] theorem State.writeInstr_regs (s : State) (a : Nat) (w : InstrWord) :
    (s.writeInstr a w).regs = s.regs := rfl
@[simp] theorem State.writeInstr_pc (s : State) (a : Nat) (w : InstrWord) :
    (s.writeInstr a w).pc = s.pc := rfl
@[simp] theorem State.writeInstr_instrMem (s : State) (a : Nat) (w : InstrWord) :
    (s.writeInstr a w).instrMem = Memory.write a w s.instrMem := rfl
@[simp] theorem State.writeInstr_dataMem (s : State) (a : Nat) (w : InstrWord) :
    (s.writeInstr a w).dataMem = s.dataMem := rfl
@[simp] theorem State.writeInstr_strTable (s : State) (a : Nat) (w : InstrWord) :
    (s.writeInstr a w).strTable = s.strTable := rfl
@[simp] theorem State.writeInstr_pool (s : State) (a : Nat) (w : InstrWord) :
    (s.writeInstr a w).pool = s.pool := rfl
@[simp] theorem State.writeInstr_run (s : State) (a : Nat) (w : InstrWord) :
    (s.writeInstr a w).run = s.run := rfl
@[simp] theorem State.writeInstr_fr (s : State) (a : Nat) (w : InstrWord) :
    (s.writeInstr a w).fr = s.fr := rfl
@[simp] theorem State.writeInstr_inBytes (s : State) (a : Nat) (w : InstrWord) :
    (s.writeInstr a w).inBytes = s.inBytes := rfl
@[simp] theorem State.writeInstr_inPos (s : State) (a : Nat) (w : InstrWord) :
    (s.writeInstr a w).inPos = s.inPos := rfl
@[simp] theorem State.writeInstr_inEnded (s : State) (a : Nat) (w : InstrWord) :
    (s.writeInstr a w).inEnded = s.inEnded := rfl
@[simp] theorem State.writeInstr_out (s : State) (a : Nat) (w : InstrWord) :
    (s.writeInstr a w).out = s.out := rfl
@[simp] theorem State.writeInstr_nanDraws (s : State) (a : Nat) (w : InstrWord) :
    (s.writeInstr a w).nanDraws = s.nanDraws := rfl

/-! ### `writeSlot` -/

@[simp] theorem State.writeSlot_regs (s : State) (k : Nat) (t : Text) :
    (s.writeSlot k t).regs = s.regs := rfl
@[simp] theorem State.writeSlot_pc (s : State) (k : Nat) (t : Text) :
    (s.writeSlot k t).pc = s.pc := rfl
@[simp] theorem State.writeSlot_instrMem (s : State) (k : Nat) (t : Text) :
    (s.writeSlot k t).instrMem = s.instrMem := rfl
@[simp] theorem State.writeSlot_dataMem (s : State) (k : Nat) (t : Text) :
    (s.writeSlot k t).dataMem = s.dataMem := rfl
@[simp] theorem State.writeSlot_strTable (s : State) (k : Nat) (t : Text) :
    (s.writeSlot k t).strTable = s.strTable.set k t := rfl
@[simp] theorem State.writeSlot_pool (s : State) (k : Nat) (t : Text) :
    (s.writeSlot k t).pool = s.pool := rfl
@[simp] theorem State.writeSlot_run (s : State) (k : Nat) (t : Text) :
    (s.writeSlot k t).run = s.run := rfl
@[simp] theorem State.writeSlot_fr (s : State) (k : Nat) (t : Text) :
    (s.writeSlot k t).fr = s.fr := rfl
@[simp] theorem State.writeSlot_inBytes (s : State) (k : Nat) (t : Text) :
    (s.writeSlot k t).inBytes = s.inBytes := rfl
@[simp] theorem State.writeSlot_inPos (s : State) (k : Nat) (t : Text) :
    (s.writeSlot k t).inPos = s.inPos := rfl
@[simp] theorem State.writeSlot_inEnded (s : State) (k : Nat) (t : Text) :
    (s.writeSlot k t).inEnded = s.inEnded := rfl
@[simp] theorem State.writeSlot_out (s : State) (k : Nat) (t : Text) :
    (s.writeSlot k t).out = s.out := rfl
@[simp] theorem State.writeSlot_nanDraws (s : State) (k : Nat) (t : Text) :
    (s.writeSlot k t).nanDraws = s.nanDraws := rfl

/-! ### `setPc` -/

@[simp] theorem State.setPc_regs (s : State) (t : Word) :
    (s.setPc t).regs = s.regs := rfl
@[simp] theorem State.setPc_pc (s : State) (t : Word) :
    (s.setPc t).pc = t := rfl
@[simp] theorem State.setPc_instrMem (s : State) (t : Word) :
    (s.setPc t).instrMem = s.instrMem := rfl
@[simp] theorem State.setPc_dataMem (s : State) (t : Word) :
    (s.setPc t).dataMem = s.dataMem := rfl
@[simp] theorem State.setPc_strTable (s : State) (t : Word) :
    (s.setPc t).strTable = s.strTable := rfl
@[simp] theorem State.setPc_pool (s : State) (t : Word) :
    (s.setPc t).pool = s.pool := rfl
@[simp] theorem State.setPc_run (s : State) (t : Word) :
    (s.setPc t).run = s.run := rfl
@[simp] theorem State.setPc_fr (s : State) (t : Word) :
    (s.setPc t).fr = s.fr := rfl
@[simp] theorem State.setPc_inBytes (s : State) (t : Word) :
    (s.setPc t).inBytes = s.inBytes := rfl
@[simp] theorem State.setPc_inPos (s : State) (t : Word) :
    (s.setPc t).inPos = s.inPos := rfl
@[simp] theorem State.setPc_inEnded (s : State) (t : Word) :
    (s.setPc t).inEnded = s.inEnded := rfl
@[simp] theorem State.setPc_out (s : State) (t : Word) :
    (s.setPc t).out = s.out := rfl
@[simp] theorem State.setPc_nanDraws (s : State) (t : Word) :
    (s.setPc t).nanDraws = s.nanDraws := rfl

/-! ### `advance` -/

@[simp] theorem State.advance_regs (s : State) :
    (s.advance).regs = s.regs := rfl
@[simp] theorem State.advance_pc (s : State) :
    (s.advance).pc = s.pc + 1 := rfl
@[simp] theorem State.advance_instrMem (s : State) :
    (s.advance).instrMem = s.instrMem := rfl
@[simp] theorem State.advance_dataMem (s : State) :
    (s.advance).dataMem = s.dataMem := rfl
@[simp] theorem State.advance_strTable (s : State) :
    (s.advance).strTable = s.strTable := rfl
@[simp] theorem State.advance_pool (s : State) :
    (s.advance).pool = s.pool := rfl
@[simp] theorem State.advance_run (s : State) :
    (s.advance).run = s.run := rfl
@[simp] theorem State.advance_fr (s : State) :
    (s.advance).fr = s.fr := rfl
@[simp] theorem State.advance_inBytes (s : State) :
    (s.advance).inBytes = s.inBytes := rfl
@[simp] theorem State.advance_inPos (s : State) :
    (s.advance).inPos = s.inPos := rfl
@[simp] theorem State.advance_inEnded (s : State) :
    (s.advance).inEnded = s.inEnded := rfl
@[simp] theorem State.advance_out (s : State) :
    (s.advance).out = s.out := rfl
@[simp] theorem State.advance_nanDraws (s : State) :
    (s.advance).nanDraws = s.nanDraws := rfl

/-! ### `takeFault` -/

@[simp] theorem State.takeFault_regs (s : State) (k : FaultKind) (q : Option Fields) :
    (s.takeFault k q).regs = s.regs := rfl
@[simp] theorem State.takeFault_pc (s : State) (k : FaultKind) (q : Option Fields) :
    (s.takeFault k q).pc = s.pc := rfl
@[simp] theorem State.takeFault_instrMem (s : State) (k : FaultKind) (q : Option Fields) :
    (s.takeFault k q).instrMem = s.instrMem := rfl
@[simp] theorem State.takeFault_dataMem (s : State) (k : FaultKind) (q : Option Fields) :
    (s.takeFault k q).dataMem = s.dataMem := rfl
@[simp] theorem State.takeFault_strTable (s : State) (k : FaultKind) (q : Option Fields) :
    (s.takeFault k q).strTable = s.strTable := rfl
@[simp] theorem State.takeFault_pool (s : State) (k : FaultKind) (q : Option Fields) :
    (s.takeFault k q).pool = s.pool := rfl
@[simp] theorem State.takeFault_run (s : State) (k : FaultKind) (q : Option Fields) :
    (s.takeFault k q).run = .faulted := rfl
@[simp] theorem State.takeFault_fr (s : State) (k : FaultKind) (q : Option Fields) :
    (s.takeFault k q).fr = ⟨some k, s.pc, q.isSome, q.getD ⟨0, 0, 0, 0⟩⟩ := rfl
@[simp] theorem State.takeFault_inBytes (s : State) (k : FaultKind) (q : Option Fields) :
    (s.takeFault k q).inBytes = s.inBytes := rfl
@[simp] theorem State.takeFault_inPos (s : State) (k : FaultKind) (q : Option Fields) :
    (s.takeFault k q).inPos = s.inPos := rfl
@[simp] theorem State.takeFault_inEnded (s : State) (k : FaultKind) (q : Option Fields) :
    (s.takeFault k q).inEnded = s.inEnded := rfl
@[simp] theorem State.takeFault_out (s : State) (k : FaultKind) (q : Option Fields) :
    (s.takeFault k q).out = s.out := rfl
@[simp] theorem State.takeFault_nanDraws (s : State) (k : FaultKind) (q : Option Fields) :
    (s.takeFault k q).nanDraws = s.nanDraws := rfl

/-! ### `raise` -/

@[simp] theorem State.raise_regs (s : State) (k : FaultKind) (i : Instr) :
    (s.raise k i).regs = s.regs := rfl
@[simp] theorem State.raise_pc (s : State) (k : FaultKind) (i : Instr) :
    (s.raise k i).pc = s.pc := rfl
@[simp] theorem State.raise_instrMem (s : State) (k : FaultKind) (i : Instr) :
    (s.raise k i).instrMem = s.instrMem := rfl
@[simp] theorem State.raise_dataMem (s : State) (k : FaultKind) (i : Instr) :
    (s.raise k i).dataMem = s.dataMem := rfl
@[simp] theorem State.raise_strTable (s : State) (k : FaultKind) (i : Instr) :
    (s.raise k i).strTable = s.strTable := rfl
@[simp] theorem State.raise_pool (s : State) (k : FaultKind) (i : Instr) :
    (s.raise k i).pool = s.pool := rfl
@[simp] theorem State.raise_run (s : State) (k : FaultKind) (i : Instr) :
    (s.raise k i).run = .faulted := rfl
@[simp] theorem State.raise_fr (s : State) (k : FaultKind) (i : Instr) :
    (s.raise k i).fr = ⟨some k, s.pc, true, i.fields⟩ := rfl
@[simp] theorem State.raise_inBytes (s : State) (k : FaultKind) (i : Instr) :
    (s.raise k i).inBytes = s.inBytes := rfl
@[simp] theorem State.raise_inPos (s : State) (k : FaultKind) (i : Instr) :
    (s.raise k i).inPos = s.inPos := rfl
@[simp] theorem State.raise_inEnded (s : State) (k : FaultKind) (i : Instr) :
    (s.raise k i).inEnded = s.inEnded := rfl
@[simp] theorem State.raise_out (s : State) (k : FaultKind) (i : Instr) :
    (s.raise k i).out = s.out := rfl
@[simp] theorem State.raise_nanDraws (s : State) (k : FaultKind) (i : Instr) :
    (s.raise k i).nanDraws = s.nanDraws := rfl

/-! ### `halt` -/

@[simp] theorem State.halt_regs (s : State) :
    (s.halt).regs = s.regs := rfl
@[simp] theorem State.halt_pc (s : State) :
    (s.halt).pc = s.pc := rfl
@[simp] theorem State.halt_instrMem (s : State) :
    (s.halt).instrMem = s.instrMem := rfl
@[simp] theorem State.halt_dataMem (s : State) :
    (s.halt).dataMem = s.dataMem := rfl
@[simp] theorem State.halt_strTable (s : State) :
    (s.halt).strTable = s.strTable := rfl
@[simp] theorem State.halt_pool (s : State) :
    (s.halt).pool = s.pool := rfl
@[simp] theorem State.halt_run (s : State) :
    (s.halt).run = .halted := rfl
@[simp] theorem State.halt_fr (s : State) :
    (s.halt).fr = s.fr := rfl
@[simp] theorem State.halt_inBytes (s : State) :
    (s.halt).inBytes = s.inBytes := rfl
@[simp] theorem State.halt_inPos (s : State) :
    (s.halt).inPos = s.inPos := rfl
@[simp] theorem State.halt_inEnded (s : State) :
    (s.halt).inEnded = s.inEnded := rfl
@[simp] theorem State.halt_out (s : State) :
    (s.halt).out = s.out := rfl
@[simp] theorem State.halt_nanDraws (s : State) :
    (s.halt).nanDraws = s.nanDraws := rfl

/-! ### `consume` -/

@[simp] theorem State.consume_regs (s : State) (n : Nat) :
    (s.consume n).regs = s.regs := rfl
@[simp] theorem State.consume_pc (s : State) (n : Nat) :
    (s.consume n).pc = s.pc := rfl
@[simp] theorem State.consume_instrMem (s : State) (n : Nat) :
    (s.consume n).instrMem = s.instrMem := rfl
@[simp] theorem State.consume_dataMem (s : State) (n : Nat) :
    (s.consume n).dataMem = s.dataMem := rfl
@[simp] theorem State.consume_strTable (s : State) (n : Nat) :
    (s.consume n).strTable = s.strTable := rfl
@[simp] theorem State.consume_pool (s : State) (n : Nat) :
    (s.consume n).pool = s.pool := rfl
@[simp] theorem State.consume_run (s : State) (n : Nat) :
    (s.consume n).run = s.run := rfl
@[simp] theorem State.consume_fr (s : State) (n : Nat) :
    (s.consume n).fr = s.fr := rfl
@[simp] theorem State.consume_inBytes (s : State) (n : Nat) :
    (s.consume n).inBytes = s.inBytes := rfl
@[simp] theorem State.consume_inPos (s : State) (n : Nat) :
    (s.consume n).inPos = s.inPos + n := rfl
@[simp] theorem State.consume_inEnded (s : State) (n : Nat) :
    (s.consume n).inEnded = s.inEnded := rfl
@[simp] theorem State.consume_out (s : State) (n : Nat) :
    (s.consume n).out = s.out := rfl
@[simp] theorem State.consume_nanDraws (s : State) (n : Nat) :
    (s.consume n).nanDraws = s.nanDraws := rfl

/-! ### `emit` -/

@[simp] theorem State.emit_regs (s : State) (t : Text) :
    (s.emit t).regs = s.regs := rfl
@[simp] theorem State.emit_pc (s : State) (t : Text) :
    (s.emit t).pc = s.pc := rfl
@[simp] theorem State.emit_instrMem (s : State) (t : Text) :
    (s.emit t).instrMem = s.instrMem := rfl
@[simp] theorem State.emit_dataMem (s : State) (t : Text) :
    (s.emit t).dataMem = s.dataMem := rfl
@[simp] theorem State.emit_strTable (s : State) (t : Text) :
    (s.emit t).strTable = s.strTable := rfl
@[simp] theorem State.emit_pool (s : State) (t : Text) :
    (s.emit t).pool = s.pool := rfl
@[simp] theorem State.emit_run (s : State) (t : Text) :
    (s.emit t).run = s.run := rfl
@[simp] theorem State.emit_fr (s : State) (t : Text) :
    (s.emit t).fr = s.fr := rfl
@[simp] theorem State.emit_inBytes (s : State) (t : Text) :
    (s.emit t).inBytes = s.inBytes := rfl
@[simp] theorem State.emit_inPos (s : State) (t : Text) :
    (s.emit t).inPos = s.inPos := rfl
@[simp] theorem State.emit_inEnded (s : State) (t : Text) :
    (s.emit t).inEnded = s.inEnded := rfl
@[simp] theorem State.emit_out (s : State) (t : Text) :
    (s.emit t).out = s.out ++ t ++ [0x0A] := rfl
@[simp] theorem State.emit_nanDraws (s : State) (t : Text) :
    (s.emit t).nanDraws = s.nanDraws := rfl

/-! ### Register and memory reads over updates that leave them alone -/

@[simp] theorem State.readData_writeX (s : State) (i : Fin 32) (v : Word) (c : Nat) :
    (s.writeX i v).readData c = s.readData c := rfl
@[simp] theorem State.readInstr_writeX (s : State) (i : Fin 32) (v : Word) (c : Nat) :
    (s.writeX i v).readInstr c = s.readInstr c := rfl
@[simp] theorem State.readData_writeF (s : State) (i : Fin 32) (v : Word) (c : Nat) :
    (s.writeF i v).readData c = s.readData c := rfl
@[simp] theorem State.readInstr_writeF (s : State) (i : Fin 32) (v : Word) (c : Nat) :
    (s.writeF i v).readInstr c = s.readInstr c := rfl
@[simp] theorem State.readX_writeData (s : State) (a : Nat) (v : Word) (r : Fin 32) :
    (s.writeData a v).readX r = s.readX r := rfl
@[simp] theorem State.readF_writeData (s : State) (a : Nat) (v : Word) (r : Fin 32) :
    (s.writeData a v).readF r = s.readF r := rfl
@[simp] theorem State.readInstr_writeData (s : State) (a : Nat) (v : Word) (c : Nat) :
    (s.writeData a v).readInstr c = s.readInstr c := rfl
@[simp] theorem State.readX_writeInstr (s : State) (a : Nat) (w : InstrWord) (r : Fin 32) :
    (s.writeInstr a w).readX r = s.readX r := rfl
@[simp] theorem State.readF_writeInstr (s : State) (a : Nat) (w : InstrWord) (r : Fin 32) :
    (s.writeInstr a w).readF r = s.readF r := rfl
@[simp] theorem State.readData_writeInstr (s : State) (a : Nat) (w : InstrWord) (c : Nat) :
    (s.writeInstr a w).readData c = s.readData c := rfl
@[simp] theorem State.readX_writeSlot (s : State) (k : Nat) (t : Text) (r : Fin 32) :
    (s.writeSlot k t).readX r = s.readX r := rfl
@[simp] theorem State.readF_writeSlot (s : State) (k : Nat) (t : Text) (r : Fin 32) :
    (s.writeSlot k t).readF r = s.readF r := rfl
@[simp] theorem State.readData_writeSlot (s : State) (k : Nat) (t : Text) (c : Nat) :
    (s.writeSlot k t).readData c = s.readData c := rfl
@[simp] theorem State.readInstr_writeSlot (s : State) (k : Nat) (t : Text) (c : Nat) :
    (s.writeSlot k t).readInstr c = s.readInstr c := rfl
@[simp] theorem State.readX_setPc (s : State) (t : Word) (r : Fin 32) :
    (s.setPc t).readX r = s.readX r := rfl
@[simp] theorem State.readF_setPc (s : State) (t : Word) (r : Fin 32) :
    (s.setPc t).readF r = s.readF r := rfl
@[simp] theorem State.readData_setPc (s : State) (t : Word) (c : Nat) :
    (s.setPc t).readData c = s.readData c := rfl
@[simp] theorem State.readInstr_setPc (s : State) (t : Word) (c : Nat) :
    (s.setPc t).readInstr c = s.readInstr c := rfl
@[simp] theorem State.readX_advance (s : State) (r : Fin 32) :
    (s.advance).readX r = s.readX r := rfl
@[simp] theorem State.readF_advance (s : State) (r : Fin 32) :
    (s.advance).readF r = s.readF r := rfl
@[simp] theorem State.readData_advance (s : State) (c : Nat) :
    (s.advance).readData c = s.readData c := rfl
@[simp] theorem State.readInstr_advance (s : State) (c : Nat) :
    (s.advance).readInstr c = s.readInstr c := rfl
@[simp] theorem State.readX_takeFault (s : State) (k : FaultKind) (q : Option Fields) (r : Fin 32) :
    (s.takeFault k q).readX r = s.readX r := rfl
@[simp] theorem State.readF_takeFault (s : State) (k : FaultKind) (q : Option Fields) (r : Fin 32) :
    (s.takeFault k q).readF r = s.readF r := rfl
@[simp] theorem State.readData_takeFault (s : State) (k : FaultKind) (q : Option Fields) (c : Nat) :
    (s.takeFault k q).readData c = s.readData c := rfl
@[simp] theorem State.readInstr_takeFault (s : State) (k : FaultKind) (q : Option Fields) (c : Nat) :
    (s.takeFault k q).readInstr c = s.readInstr c := rfl
@[simp] theorem State.readX_raise (s : State) (k : FaultKind) (i : Instr) (r : Fin 32) :
    (s.raise k i).readX r = s.readX r := rfl
@[simp] theorem State.readF_raise (s : State) (k : FaultKind) (i : Instr) (r : Fin 32) :
    (s.raise k i).readF r = s.readF r := rfl
@[simp] theorem State.readData_raise (s : State) (k : FaultKind) (i : Instr) (c : Nat) :
    (s.raise k i).readData c = s.readData c := rfl
@[simp] theorem State.readInstr_raise (s : State) (k : FaultKind) (i : Instr) (c : Nat) :
    (s.raise k i).readInstr c = s.readInstr c := rfl
@[simp] theorem State.readX_halt (s : State) (r : Fin 32) :
    (s.halt).readX r = s.readX r := rfl
@[simp] theorem State.readF_halt (s : State) (r : Fin 32) :
    (s.halt).readF r = s.readF r := rfl
@[simp] theorem State.readData_halt (s : State) (c : Nat) :
    (s.halt).readData c = s.readData c := rfl
@[simp] theorem State.readInstr_halt (s : State) (c : Nat) :
    (s.halt).readInstr c = s.readInstr c := rfl
@[simp] theorem State.readX_consume (s : State) (n : Nat) (r : Fin 32) :
    (s.consume n).readX r = s.readX r := rfl
@[simp] theorem State.readF_consume (s : State) (n : Nat) (r : Fin 32) :
    (s.consume n).readF r = s.readF r := rfl
@[simp] theorem State.readData_consume (s : State) (n : Nat) (c : Nat) :
    (s.consume n).readData c = s.readData c := rfl
@[simp] theorem State.readInstr_consume (s : State) (n : Nat) (c : Nat) :
    (s.consume n).readInstr c = s.readInstr c := rfl
@[simp] theorem State.readX_emit (s : State) (t : Text) (r : Fin 32) :
    (s.emit t).readX r = s.readX r := rfl
@[simp] theorem State.readF_emit (s : State) (t : Text) (r : Fin 32) :
    (s.emit t).readF r = s.readF r := rfl
@[simp] theorem State.readData_emit (s : State) (t : Text) (c : Nat) :
    (s.emit t).readData c = s.readData c := rfl
@[simp] theorem State.readInstr_emit (s : State) (t : Text) (c : Nat) :
    (s.emit t).readInstr c = s.readInstr c := rfl

/-! ### Results -/

/-- A next state is known by its outcome. -/
theorem next_inj {s t : State} (h : (Host.Outcome.next s : Result) = .next t) : s = t := by
  injection h

end Sys2Proof.Machine
end

