-- ==== Sys2Proof/Laws/Operands.lean ====
section
/-! SUPPORT. What the operand checks and the operand shapes can do (`spec/00_scope.md` R9). -/

namespace Sys2Proof.Machine

/-! ### Index checks -/

theorem index?_eq_some_iff {n : Nat} {o : Word} {k : Fin n} :
    index? n o = some k ↔ o.toInt = (k.val : Int) := by
  unfold index?
  constructor
  · intro h
    split at h
    · rename_i hr
      cases h
      show o.toInt = ((o.toInt.toNat : Nat) : Int)
      omega
    · cases h
  · intro h
    have hr : 0 ≤ o.toInt ∧ o.toInt < n := by omega
    rw [dif_pos hr]
    congr 1
    apply Fin.ext
    show o.toInt.toNat = k.val
    omega

theorem index?_eq_none_iff {n : Nat} {o : Word} :
    index? n o = none ↔ o.toInt < 0 ∨ (n : Int) ≤ o.toInt := by
  unfold index?
  split <;> simp <;> omega

theorem reg?_eq_some_iff {o : Word} {r : Fin 32} : reg? o = some r ↔ o.toInt = (r.val : Int) :=
  index?_eq_some_iff

theorem reg?_eq_none_iff {o : Word} : reg? o = none ↔ o.toInt < 0 ∨ 32 ≤ o.toInt :=
  index?_eq_none_iff

theorem cell?_eq_some_iff {o : Word} {a : Fin Config.dataCapacity} :
    cell? o = some a ↔ o.toInt = (a.val : Int) :=
  index?_eq_some_iff

theorem cell?_eq_none_iff {o : Word} : cell? o = none ↔ o.toInt < 0 ∨ 1024 ≤ o.toInt :=
  index?_eq_none_iff

theorem text?_eq_some_iff {table : List Text} {o : Word} {t : Text} :
    text? table o = some t ↔ ∃ k : Nat, o.toInt = k ∧ table[k]? = some t := by
  unfold text?
  split
  · constructor
    · intro h
      exact ⟨o.toInt.toNat, by omega, h⟩
    · rintro ⟨k, hk, h⟩
      have : o.toInt.toNat = k := by omega
      rwa [this]
  · constructor
    · intro h
      cases h
    · rintro ⟨k, hk, _⟩
      omega

theorem text?_eq_none_iff {table : List Text} {o : Word} :
    text? table o = none ↔ o.toInt < 0 ∨ (table.length : Int) ≤ o.toInt := by
  unfold text?
  split
  · rw [List.getElem?_eq_none_iff]
    omega
  · simp
    omega

/-! ### Operand shapes -/

theorem withReg_of_some {i : Instr} {o : Word} {s : State} {body : Fin 32 → State} {r : Fin 32}
    (h : reg? o = some r) : withReg i o s body = body r := by
  simp [withReg, h]

theorem withReg_of_none {i : Instr} {o : Word} {s : State} {body : Fin 32 → State}
    (h : reg? o = none) : withReg i o s body = s.raise .operandOutOfRange i := by
  simp [withReg, h]

/-- Everything `withReg` can do. -/
theorem withReg_cases (i : Instr) (o : Word) (s : State) (body : Fin 32 → State) :
    (∃ r, reg? o = some r ∧ withReg i o s body = body r) ∨
      (reg? o = none ∧ withReg i o s body = s.raise .operandOutOfRange i) := by
  cases h : reg? o with
  | none => exact .inr ⟨rfl, withReg_of_none h⟩
  | some r => exact .inl ⟨r, rfl, withReg_of_some h⟩

theorem withRegs3_of_some {i : Instr} {o1 o2 o3 : Word} {s : State}
    {body : Fin 32 → Fin 32 → Fin 32 → State} {d a b : Fin 32}
    (h1 : reg? o1 = some d) (h2 : reg? o2 = some a) (h3 : reg? o3 = some b) :
    withRegs3 i o1 o2 o3 s body = body d a b := by
  simp [withRegs3, h1, h2, h3]

theorem withRegs3_of_none {i : Instr} {o1 o2 o3 : Word} {s : State}
    {body : Fin 32 → Fin 32 → Fin 32 → State}
    (h : reg? o1 = none ∨ reg? o2 = none ∨ reg? o3 = none) :
    withRegs3 i o1 o2 o3 s body = s.raise .operandOutOfRange i := by
  unfold withRegs3
  split
  · rename_i e1 e2 e3
    simp [e1, e2, e3] at h
  · rfl

/-- Everything `withRegs3` can do. -/
theorem withRegs3_cases (i : Instr) (o1 o2 o3 : Word) (s : State)
    (body : Fin 32 → Fin 32 → Fin 32 → State) :
    (∃ d a b, reg? o1 = some d ∧ reg? o2 = some a ∧ reg? o3 = some b ∧
        withRegs3 i o1 o2 o3 s body = body d a b) ∨
      ((reg? o1 = none ∨ reg? o2 = none ∨ reg? o3 = none) ∧
        withRegs3 i o1 o2 o3 s body = s.raise .operandOutOfRange i) := by
  cases h1 : reg? o1 with
  | none => exact .inr ⟨.inl rfl, withRegs3_of_none (.inl h1)⟩
  | some d =>
    cases h2 : reg? o2 with
    | none => exact .inr ⟨.inr (.inl rfl), withRegs3_of_none (.inr (.inl h2))⟩
    | some a =>
      cases h3 : reg? o3 with
      | none => exact .inr ⟨.inr (.inr rfl), withRegs3_of_none (.inr (.inr h3))⟩
      | some b => exact .inl ⟨d, a, b, rfl, rfl, rfl, withRegs3_of_some h1 h2 h3⟩

/-- Everything `withRegCell` can do: the register is checked before the address. -/
theorem withRegCell_cases (i : Instr) (o addr : Word) (s : State)
    (body : Fin 32 → Fin Config.dataCapacity → State) :
    (∃ r a, reg? o = some r ∧ cell? addr = some a ∧ withRegCell i o addr s body = body r a) ∨
      (reg? o = none ∧ withRegCell i o addr s body = s.raise .operandOutOfRange i) ∨
      (reg? o ≠ none ∧ cell? addr = none ∧
        withRegCell i o addr s body = s.raise .dataAddressOutOfRange i) := by
  unfold withRegCell
  cases h : reg? o with
  | none => exact .inr (.inl ⟨rfl, withReg_of_none h⟩)
  | some r =>
    rw [withReg_of_some h]
    cases h2 : cell? addr with
    | none => exact .inr (.inr ⟨by simp, rfl, rfl⟩)
    | some a => exact .inl ⟨r, a, rfl, rfl, rfl⟩

/-- Everything `withSlot` can do. -/
theorem withSlot_cases (i : Instr) (o : Word) (s : State) (body : Text → State) :
    (∃ t, text? s.strTable o = some t ∧ withSlot i o s body = body t) ∨
      (text? s.strTable o = none ∧ withSlot i o s body = s.raise .stringIndexOutOfRange i) := by
  unfold withSlot
  cases h : text? s.strTable o with
  | none => exact .inr ⟨rfl, rfl⟩
  | some t => exact .inl ⟨t, rfl, rfl⟩

/-- Everything `withRegSlots` can do: the register is checked before the slots. -/
theorem withRegSlots_cases (i : Instr) (o1 o2 o3 : Word) (s : State)
    (body : Fin 32 → Text → Text → State) :
    (∃ d t u, reg? o1 = some d ∧ text? s.strTable o2 = some t ∧ text? s.strTable o3 = some u ∧
        withRegSlots i o1 o2 o3 s body = body d t u) ∨
      (reg? o1 = none ∧ withRegSlots i o1 o2 o3 s body = s.raise .operandOutOfRange i) ∨
      (reg? o1 ≠ none ∧ (text? s.strTable o2 = none ∨ text? s.strTable o3 = none) ∧
        withRegSlots i o1 o2 o3 s body = s.raise .stringIndexOutOfRange i) := by
  unfold withRegSlots
  cases h : reg? o1 with
  | none => exact .inr (.inl ⟨rfl, withReg_of_none h⟩)
  | some d =>
    rw [withReg_of_some h]
    rcases withSlot_cases i o2 s fun t => withSlot i o3 s fun u => body d t u with
      ⟨t, ht, e⟩ | ⟨hn, e⟩
    · rw [e]
      rcases withSlot_cases i o3 s fun u => body d t u with ⟨u, hu, e'⟩ | ⟨hn, e'⟩
      · exact .inl ⟨d, t, u, rfl, ht, hu, e'⟩
      · exact .inr (.inr ⟨by simp, .inr hn, e'⟩)
    · exact .inr (.inr ⟨by simp, .inl hn, e⟩)

/-! ### Truth values -/

@[simp] theorem truthOf_eq_true_iff {v : Word} : truthOf v = some true ↔ v = 1 := by
  unfold truthOf
  split
  · simp_all
  · split <;> simp_all

@[simp] theorem truthOf_eq_false_iff {v : Word} : truthOf v = some false ↔ v = 0 := by
  unfold truthOf
  split
  · simp_all
  · split <;> simp_all

/-- What a relation writes reads back as the truth it was written for. -/
@[simp] theorem truthOf_boolWord (b : Bool) : truthOf (boolWord b) = some b := by
  cases b <;> rfl

end Sys2Proof.Machine
end

