-- ==== Sys2Proof/Laws/Streams.lean ====
section
/-! SUPPORT. Reading tokens from `IN` (`spec/47_syscall.md` R253, R267, R268). -/

namespace Sys2Proof.Machine

theorem dropWhile_length_le {α : Type} (p : α → Bool) (l : List α) :
    (l.takeWhile p).length + (l.dropWhile p).length = l.length := by
  rw [← List.length_append, List.takeWhile_append_dropWhile]

/-- A token, with the whitespace before it, lies within the bytes supplied. -/
theorem scanToken_token_le {e : Bool} {bytes : List Byte} {t : Text} {n : Nat}
    (h : scanToken e bytes = .token t n) : n ≤ bytes.length := by
  unfold scanToken at h
  simp only at h
  split at h
  · split at h <;> cases h
  · split at h
    · cases h
    · injection h with h1 h2
      have a := dropWhile_length_le isSpace bytes
      have b := dropWhile_length_le (fun c => !isSpace c) (bytes.dropWhile isSpace)
      omega

/-- At the end of the stream no more is consumed than was supplied. -/
theorem scanToken_ended_le {e : Bool} {bytes : List Byte} {n : Nat}
    (h : scanToken e bytes = .ended n) : n ≤ bytes.length := by
  unfold scanToken at h
  simp only at h
  split at h
  · split at h
    · injection h with h1
      have a := dropWhile_length_le isSpace bytes
      omega
    · cases h
  · split at h <;> cases h

/-- The end of the stream is reported only when it has been marked. -/
theorem scanToken_ended_marked {e : Bool} {bytes : List Byte} {n : Nat}
    (h : scanToken e bytes = .ended n) : e = true := by
  unfold scanToken at h
  simp only at h
  split at h
  · split at h
    · assumption
    · cases h
  · split at h <;> cases h

theorem State.nextToken_token_le {s : State} {t : Text} {n : Nat}
    (h : s.nextToken = .token t n) : n ≤ s.pending.length :=
  scanToken_token_le h

theorem State.nextToken_ended_le {s : State} {n : Nat}
    (h : s.nextToken = .ended n) : n ≤ s.pending.length :=
  scanToken_ended_le h

@[simp] theorem State.pending_length (s : State) :
    s.pending.length = s.inBytes.length - s.inPos := by
  simp [State.pending]

end Sys2Proof.Machine
end

