-- ==== Sys2Proof/Laws/Effects.lean ====
section
/-! SUPPORT. Everything an instruction can do, said once: if `exec i s` answers a next state, that
state is one of the forms of `Effect`. -/

namespace Sys2Proof.Machine

/-- The instruction `i` transfers control to `p` at `s`: a jump, or a branch that is taken. -/
def State.GoesTo (s : State) (i : Instr) (p : Word) : Prop :=
  (∃ u2 u3, i = .jump p u2 u3) ∨
    ∃ o off u3 r, reg? o = some r ∧ p = branchTarget s.pc off ∧
      ((i = .botb o off u3 ∧ truthOf (s.readX r) = some true) ∨
        (i = .bofb o off u3 ∧ truthOf (s.readX r) = some false))

/-- The forms a next state of the instruction `i` at `s` can have. -/
inductive Effect (i : Instr) (s : State) : State → Prop where
  /-- A read that waits changes nothing (R128). -/
  | waits (h : s.WaitsIn i) : Effect i s s
  | halts : Effect i s s.halt
  | advances : Effect i s s.advance
  | jumps (p : Word) (h : s.GoesTo i p) : Effect i s (s.setPc p)
  | setsX (d : Fin 32) (v : Word) : Effect i s (s.writeX d v).advance
  | setsF (d : Fin 32) (r : FloatResult) : Effect i s (s.writeFloat d r).advance
  | setsCell (a : Fin Config.dataCapacity) (v : Word) : Effect i s (s.writeData a v).advance
  | setsSlot (k : Nat) (t : Text) (hk : k < s.strTable.length) (ht : t.length ≤ Config.maxTextLen) :
      Effect i s (s.writeSlot k t).advance
  | emits (t : Text) : Effect i s (s.emit t).advance
  | readsX (n : Nat) (d : Fin 32) (v : Word) (hn : n ≤ s.pending.length) :
      Effect i s ((s.consume n).writeX d v).advance
  | readsF (n : Nat) (d : Fin 32) (v : Word) (hn : n ≤ s.pending.length) :
      Effect i s ((s.consume n).writeF d v).advance
  | readsSlot (n k : Nat) (t : Text) (hn : n ≤ s.pending.length) (hk : k < s.strTable.length)
      (ht : t.length ≤ Config.maxTextLen) : Effect i s ((s.consume n).writeSlot k t).advance
  | faults (k : FaultKind) : Effect i s (s.raise k i)
  | faultsAfter (n : Nat) (k : FaultKind) (hn : n ≤ s.pending.length) :
      Effect i s ((s.consume n).raise k i)

variable {i : Instr} {s t : State}

theorem intArith_effect (o1 o2 o3 : Word) (op : Word → Word → Word) :
    Effect i s (intArith i o1 o2 o3 op s) := by
  unfold intArith
  rcases withRegs3_cases i o1 o2 o3 s _ with ⟨d, a, b, _, _, _, e⟩ | ⟨_, e⟩ <;> rw [e]
  · exact .setsX _ _
  · exact .faults _

theorem intDivide_effect (o1 o2 o3 : Word) (op : Word → Word → Word) :
    Effect i s (intDivide i o1 o2 o3 op s) := by
  unfold intDivide
  rcases withRegs3_cases i o1 o2 o3 s _ with ⟨d, a, b, _, _, _, e⟩ | ⟨_, e⟩ <;> rw [e]
  · split
    · exact .faults _
    · exact .setsX _ _
  · exact .faults _

theorem floatArith_effect (o1 o2 o3 : Word) (op : Word → Word → FloatResult) :
    Effect i s (floatArith i o1 o2 o3 op s) := by
  unfold floatArith
  rcases withRegs3_cases i o1 o2 o3 s _ with ⟨d, a, b, _, _, _, e⟩ | ⟨_, e⟩ <;> rw [e]
  · exact .setsF _ _
  · exact .faults _

theorem intRelation_effect (o1 o2 o3 : Word) (rel : Int → Int → Bool) :
    Effect i s (intRelation i o1 o2 o3 rel s) := by
  unfold intRelation
  rcases withRegs3_cases i o1 o2 o3 s _ with ⟨d, a, b, _, _, _, e⟩ | ⟨_, e⟩ <;> rw [e]
  · exact .setsX _ _
  · exact .faults _

theorem floatRelation_effect (o1 o2 o3 : Word) (rel : Word → Word → Bool) :
    Effect i s (floatRelation i o1 o2 o3 rel s) := by
  unfold floatRelation
  rcases withRegs3_cases i o1 o2 o3 s _ with ⟨d, a, b, _, _, _, e⟩ | ⟨_, e⟩ <;> rw [e]
  · exact .setsX _ _
  · exact .faults _

theorem textRelation_effect (o1 o2 o3 : Word) (rel : Int → Bool) :
    Effect i s (textRelation i o1 o2 o3 rel s) := by
  unfold textRelation
  rcases withRegSlots_cases i o1 o2 o3 s _ with ⟨d, t, u, _, _, _, e⟩ | ⟨_, e⟩ | ⟨_, _, e⟩ <;> rw [e]
  · exact .setsX _ _
  · exact .faults _
  · exact .faults _

theorem branchOn_effect (sense : Bool) (o off : Word)
    (h : ∀ r, reg? o = some r → truthOf (s.readX r) = some sense →
      s.GoesTo i (branchTarget s.pc off)) : Effect i s (branchOn sense i o off s) := by
  unfold branchOn
  rcases withReg_cases i o s _ with ⟨r, hr, e⟩ | ⟨_, e⟩ <;> rw [e]
  · split
    · exact .faults _
    · rename_i b hb
      split
      · rename_i hs
        exact .jumps _ (h r hr (hs ▸ hb))
      · exact .advances
  · exact .faults _

/-- Everything a read service can do, when each store of a token is a form of `Effect`. -/
theorem readService_effect {store : Text → State → Except FaultKind State}
    (hw : s.nextToken = .blocked → s.WaitsIn i)
    (h : ∀ (w : Text) (n : Nat) (s' : State), n ≤ s.pending.length →
      store w (s.consume n) = .ok s' → Effect i s s'.advance) :
    Effect i s (readService i s store) := by
  unfold readService
  split
  · rename_i hb
    exact .waits (hw hb)
  · rename_i n hn
    exact .faultsAfter n _ (State.nextToken_ended_le hn)
  · rename_i w n hn
    split
    · rename_i s' hs
      exact h w n s' (State.nextToken_token_le hn) hs
    · exact .faultsAfter n _ (State.nextToken_token_le hn)

theorem text?_index_lt {table : List Text} {o : Word} {w : Text} (h : text? table o = some w) :
    o.toInt.toNat < table.length := by
  obtain ⟨k, hk, hw⟩ := text?_eq_some_iff.1 h
  have : k < table.length := (List.getElem?_eq_some_iff.1 hw).1
  omega

theorem runService_effect {code x u3 : Word} {v : Service} (hv : service? code = some v) :
    Effect (.call code x u3) s (runService (.call code x u3) x s v) := by
  have hw (hr : s.startsRead x v = true) (hb : s.nextToken = .blocked) :
      s.WaitsIn (.call code x u3) := ⟨code, x, u3, v, rfl, hv, hr, hb⟩
  cases v with
  | readInt =>
    show Effect _ s (readIntService _ x s)
    unfold readIntService
    rcases withReg_cases (.call code x u3) x s _ with ⟨r, hx, e⟩ | ⟨_, e⟩ <;> rw [e]
    · refine readService_effect (hw (by simp [State.startsRead, hx])) fun w n s' hn hs => ?_
      split at hs <;> cases hs
      exact .readsX n r _ hn
    · exact .faults _
  | readFloat =>
    show Effect _ s (readFloatService _ x s)
    unfold readFloatService
    rcases withReg_cases (.call code x u3) x s _ with ⟨r, hx, e⟩ | ⟨_, e⟩ <;> rw [e]
    · refine readService_effect (hw (by simp [State.startsRead, hx])) fun w n s' hn hs => ?_
      split at hs <;> cases hs
      exact .readsF n r _ hn
    · exact .faults _
  | readBool =>
    show Effect _ s (readBoolService _ x s)
    unfold readBoolService
    rcases withReg_cases (.call code x u3) x s _ with ⟨r, hx, e⟩ | ⟨_, e⟩ <;> rw [e]
    · refine readService_effect (hw (by simp [State.startsRead, hx])) fun w n s' hn hs => ?_
      split at hs <;> cases hs
      exact .readsX n r _ hn
    · exact .faults _
  | readString =>
    show Effect _ s (readStringService _ x s)
    unfold readStringService
    rcases withSlot_cases (.call code x u3) x s _ with ⟨w0, hw0, e⟩ | ⟨_, e⟩ <;> rw [e]
    · refine readService_effect (hw (by simp [State.startsRead, hw0])) fun w n s' hn hs => ?_
      split at hs <;> cases hs
      exact .readsSlot n _ w hn (text?_index_lt hw0) (by omega)
    · exact .faults _
  | writeInt =>
    show Effect _ s (writeIntService _ x s)
    unfold writeIntService
    rcases withReg_cases (.call code x u3) x s _ with ⟨r, _, e⟩ | ⟨_, e⟩ <;> rw [e]
    · exact .emits _
    · exact .faults _
  | writeFloat =>
    show Effect _ s (writeFloatService _ x s)
    unfold writeFloatService
    rcases withReg_cases (.call code x u3) x s _ with ⟨r, _, e⟩ | ⟨_, e⟩ <;> rw [e]
    · exact .emits _
    · exact .faults _
  | writeBool =>
    show Effect _ s (writeBoolService _ x s)
    unfold writeBoolService
    rcases withReg_cases (.call code x u3) x s _ with ⟨r, _, e⟩ | ⟨_, e⟩ <;> rw [e]
    · split
      · exact .emits _
      · exact .faults _
    · exact .faults _
  | writeString =>
    show Effect _ s (writeStringService _ x s)
    unfold writeStringService
    rcases withSlot_cases (.call code x u3) x s _ with ⟨w, _, e⟩ | ⟨_, e⟩ <;> rw [e]
    · exact .emits _
    · exact .faults _

theorem sstr_effect {k u2 u3 : Word} (h : execSstr k u2 u3 s = .next t) :
    Effect (.sstr k u2 u3) s t := by
  cases next_inj h
  split
  · exact .faults _
  · rename_i w hw
    rcases withSlot_cases (.sstr k u2 u3) k s fun _ =>
        if Config.maxTextLen < w.length then s.raise .stringTooLong (.sstr k u2 u3)
        else (s.writeSlot k.toInt.toNat w).advance with ⟨w0, hw0, e⟩ | ⟨_, e⟩ <;> rw [e]
    · split
      · exact .faults _
      · exact .setsSlot _ w (text?_index_lt hw0) (by omega)
    · exact .faults _

/-- Everything `exec` can do. -/
theorem exec_effect (i : Instr) {s t : State} (h : exec i s = .next t) : Effect i s t := by
  cases i with
  | halt u1 u2 u3 => cases next_inj h; exact .halts
  | noop u1 u2 u3 => cases next_inj h; exact .advances
  | addi d a b => cases next_inj h; exact intArith_effect ..
  | subi d a b => cases next_inj h; exact intArith_effect ..
  | muli d a b => cases next_inj h; exact intArith_effect ..
  | divi d a b => cases next_inj h; exact intDivide_effect ..
  | modi d a b => cases next_inj h; exact intDivide_effect ..
  | addf d a b => cases next_inj h; exact floatArith_effect ..
  | subf d a b => cases next_inj h; exact floatArith_effect ..
  | mulf d a b => cases next_inj h; exact floatArith_effect ..
  | divf d a b => cases next_inj h; exact floatArith_effect ..
  | modf d a b => cases next_inj h; exact floatArith_effect ..
  | equi d a b => cases next_inj h; exact intRelation_effect ..
  | neqi d a b => cases next_inj h; exact intRelation_effect ..
  | lthi d a b => cases next_inj h; exact intRelation_effect ..
  | ltei d a b => cases next_inj h; exact intRelation_effect ..
  | gthi d a b => cases next_inj h; exact intRelation_effect ..
  | gtei d a b => cases next_inj h; exact intRelation_effect ..
  | equf d a b => cases next_inj h; exact floatRelation_effect ..
  | neqf d a b => cases next_inj h; exact floatRelation_effect ..
  | lthf d a b => cases next_inj h; exact floatRelation_effect ..
  | ltef d a b => cases next_inj h; exact floatRelation_effect ..
  | gthf d a b => cases next_inj h; exact floatRelation_effect ..
  | gtef d a b => cases next_inj h; exact floatRelation_effect ..
  | equs d j k => cases next_inj h; exact textRelation_effect ..
  | neqs d j k => cases next_inj h; exact textRelation_effect ..
  | lths d j k => cases next_inj h; exact textRelation_effect ..
  | ltes d j k => cases next_inj h; exact textRelation_effect ..
  | gths d j k => cases next_inj h; exact textRelation_effect ..
  | gtes d j k => cases next_inj h; exact textRelation_effect ..
  | jump addr u2 u3 => cases next_inj h; exact .jumps _ (.inl ⟨_, _, rfl⟩)
  | botb r off u3 =>
    cases next_inj h
    exact branchOn_effect _ _ _ fun q hq ht => .inr ⟨r, off, u3, q, hq, rfl, .inl ⟨rfl, ht⟩⟩
  | bofb r off u3 =>
    cases next_inj h
    exact branchOn_effect _ _ _ fun q hq ht => .inr ⟨r, off, u3, q, hq, rfl, .inr ⟨rfl, ht⟩⟩
  | ldwi d addr u3 =>
    cases next_inj h
    rcases withRegCell_cases (.ldwi d addr u3) d addr s _ with
      ⟨r, a, _, _, e⟩ | ⟨_, e⟩ | ⟨_, _, e⟩ <;> rw [e]
    · exact .setsX _ _
    · exact .faults _
    · exact .faults _
  | ldwf d addr u3 =>
    cases next_inj h
    rcases withRegCell_cases (.ldwf d addr u3) d addr s _ with
      ⟨r, a, _, _, e⟩ | ⟨_, e⟩ | ⟨_, _, e⟩ <;> rw [e]
    · exact .setsF _ (.num _)
    · exact .faults _
    · exact .faults _
  | ldii d c u3 =>
    cases next_inj h
    rcases withReg_cases (.ldii d c u3) d s _ with ⟨r, _, e⟩ | ⟨_, e⟩ <;> rw [e]
    · exact .setsX _ _
    · exact .faults _
  | ldif d c u3 =>
    cases next_inj h
    rcases withReg_cases (.ldif d c u3) d s _ with ⟨r, _, e⟩ | ⟨_, e⟩ <;> rw [e]
    · exact .setsF _ (.num _)
    · exact .faults _
  | stwi addr r u3 =>
    cases next_inj h
    rcases withRegCell_cases (.stwi addr r u3) r addr s _ with
      ⟨q, a, _, _, e⟩ | ⟨_, e⟩ | ⟨_, _, e⟩ <;> rw [e]
    · exact .setsCell _ _
    · exact .faults _
    · exact .faults _
  | stwf addr r u3 =>
    cases next_inj h
    rcases withRegCell_cases (.stwf addr r u3) r addr s _ with
      ⟨q, a, _, _, e⟩ | ⟨_, e⟩ | ⟨_, _, e⟩ <;> rw [e]
    · exact .setsCell _ _
    · exact .faults _
    · exact .faults _
  | sstr k u2 u3 => exact sstr_effect h
  | call code x u3 =>
    cases next_inj h
    split
    · exact .faults _
    · rename_i v hv
      exact runService_effect hv

end Sys2Proof.Machine
end

