-- ==== Sys2Proof/Laws/HostPort.lean ====
section
/-! SUPPORT. Everything an action of the host or the environment can do
(`spec/70_reset_and_hazards.md` R326). -/

namespace Sys2Proof.Machine

/-- A loader's write that is not refused happens while Loaded, within its bounds. -/
theorem loaderWrite_cases {b : Bool} {s s' t : State} (h : loaderWrite b s s' = .next t) :
    s.run = .loaded ∧ b = true ∧ t = s' := by
  unfold loaderWrite at h
  split at h
  · split at h
    · exact ⟨‹_›, ‹_›, (next_inj h).symm⟩
    · cases h
  · cases h

theorem loaderWrite_of_loaded {b : Bool} {s s' : State} (hr : s.run = .loaded) (hb : b = true) :
    loaderWrite b s s' = .next s' := by
  simp [loaderWrite, hr, hb]

theorem loaderWrite_of_not_loaded {b : Bool} {s s' : State} (hr : s.run ≠ .loaded) :
    loaderWrite b s s' = .refused .hostWriteNotLoaded := by
  simp [loaderWrite, hr]

/-- The forms a next state of an action at `s` can have. -/
inductive HostEffect (s : State) : HostAction → State → Prop where
  | resets : HostEffect s .reset { State.reset with nanDraws := s.nanDraws }
  | writesInstr (a : Nat) (w : InstrWord) (hr : s.run = .loaded) (ha : a < Config.instrCapacity) :
      HostEffect s (.writeInstr a w) (s.writeInstr a w)
  | writesData (a : Nat) (v : Word) (hr : s.run = .loaded) (ha : a < Config.dataCapacity) :
      HostEffect s (.writeData a v) (s.writeData a v)
  | writesSlot (k : Nat) (t : Text) (hr : s.run = .loaded) (hk : k < s.strTable.length)
      (ht : t.length ≤ Config.maxTextLen) : HostEffect s (.writeSlot k t) (s.writeSlot k t)
  | setsPool (entries : List Text) (hr : s.run = .loaded) :
      HostEffect s (.setPool entries) { s with pool := entries }
  | starts (hr : s.run = .loaded) : HostEffect s .start { s with run := .running }
  /-- `start` outside Loaded is ignored (R325). -/
  | ignoresStart (hr : s.run ≠ .loaded) : HostEffect s .start s
  | appends (bytes : List Byte) (he : s.inEnded = false) :
      HostEffect s (.appendInput bytes) { s with inBytes := s.inBytes ++ bytes }
  | endsInput : HostEffect s .endInput { s with inEnded := true }

/-- Everything `hostAct` can do. -/
theorem hostAct_effect {act : HostAction} {s t : State} (h : hostAct act s = .next t) :
    HostEffect s act t := by
  cases act with
  | reset => cases next_inj h; exact .resets
  | writeInstr a w =>
    obtain ⟨hr, hb, rfl⟩ := loaderWrite_cases h
    exact .writesInstr a w hr (of_decide_eq_true hb)
  | writeData a v =>
    obtain ⟨hr, hb, rfl⟩ := loaderWrite_cases h
    exact .writesData a v hr (of_decide_eq_true hb)
  | writeSlot k u =>
    obtain ⟨hr, hb, rfl⟩ := loaderWrite_cases h
    simp only [Bool.and_eq_true, decide_eq_true_eq] at hb
    exact .writesSlot k u hr hb.1 hb.2
  | setPool entries =>
    obtain ⟨hr, _, rfl⟩ := loaderWrite_cases h
    exact .setsPool entries hr
  | start =>
    cases next_inj h
    split
    · exact .starts ‹_›
    · exact .ignoresStart ‹_›
  | appendInput bytes =>
    simp only [hostAct] at h
    split at h
    · cases h
    · cases next_inj h
      exact .appends bytes (Bool.eq_false_iff.2 ‹_›)
  | endInput => cases next_inj h; exact .endsInput

end Sys2Proof.Machine
end

