-- ==== Sys2Proof/Laws/Memory.lean ====
section
/-! SUPPORT. Sparse memories: what is read after a write, and that every write keeps the canonical
form (`spec/20_memory.md` R63). -/

namespace Sys2Proof.Machine

variable {w : Nat}

/-- An address below all listed ones reads as zero. -/
theorem Memory.read_eq_zero_of_wfFrom {lo cap : Nat} :
    ∀ (m : Memory w) {a : Nat}, Memory.wfFrom lo cap m = true → a < lo → Memory.read a m = 0
  | [], _, _, _ => rfl
  | (b, u) :: m, a, h, ha => by
    simp only [Memory.wfFrom, Bool.and_eq_true, decide_eq_true_eq] at h
    have hab : a ≠ b := by omega
    simp only [Memory.read, hab, if_false]
    exact Memory.read_eq_zero_of_wfFrom m h.2 (by omega)

/-- A lower start is a weaker condition. -/
theorem Memory.wfFrom_mono {lo lo' cap : Nat} (hle : lo' ≤ lo) :
    ∀ {m : Memory w}, Memory.wfFrom lo cap m = true → Memory.wfFrom lo' cap m = true
  | [], _ => rfl
  | (b, u) :: m, h => by
    simp only [Memory.wfFrom, Bool.and_eq_true, decide_eq_true_eq] at h ⊢
    exact ⟨⟨⟨by omega, h.1.1.2⟩, h.1.2⟩, h.2⟩

/-- A write leaves every other address alone, in any list. -/
theorem Memory.read_write_of_ne {a b : Nat} (v : BitVec w) (hne : b ≠ a) :
    ∀ m : Memory w, Memory.read b (Memory.write a v m) = Memory.read b m
  | [] => by
    unfold Memory.write
    split <;> simp [Memory.read, hne]
  | (c, u) :: m => by
    have ih := Memory.read_write_of_ne v hne m
    unfold Memory.write
    split
    · split <;> simp [Memory.read, hne]
    · split
      · rename_i hac
        subst hac
        split <;> simp [Memory.read, hne]
      · simp only [Memory.read, ih]

/-- A read after a write to the same address gives the value written. -/
theorem Memory.read_write_self {lo cap a : Nat} (v : BitVec w) :
    ∀ m : Memory w, Memory.wfFrom lo cap m = true → Memory.read a (Memory.write a v m) = v
  | [], _ => by
    unfold Memory.write
    split <;> simp_all [Memory.read]
  | (c, u) :: m, h => by
    have h' := h
    simp only [Memory.wfFrom, Bool.and_eq_true, decide_eq_true_eq] at h
    unfold Memory.write
    split
    · rename_i hac
      split
      · rename_i hv
        have hne : a ≠ c := by omega
        simp only [Memory.read, hne, if_false, hv]
        exact Memory.read_eq_zero_of_wfFrom m h.2 (by omega)
      · simp [Memory.read]
    · split
      · rename_i hac
        subst hac
        split
        · rename_i hv
          rw [hv]
          exact Memory.read_eq_zero_of_wfFrom m h.2 (by omega)
        · simp [Memory.read]
      · rename_i hac
        simp only [Memory.read, hac, if_false]
        exact Memory.read_write_self v m h.2

/-- A write of an existing address keeps the canonical form. -/
theorem Memory.wfFrom_write {cap a : Nat} (v : BitVec w) (hcap : a < cap) :
    ∀ {lo : Nat} (m : Memory w), lo ≤ a → Memory.wfFrom lo cap m = true →
      Memory.wfFrom lo cap (Memory.write a v m) = true
  | lo, [], hlo, _ => by
    unfold Memory.write
    split
    · rfl
    · simp_all [Memory.wfFrom]
  | lo, (c, u) :: m, hlo, h => by
    have h' := h
    simp only [Memory.wfFrom, Bool.and_eq_true, decide_eq_true_eq] at h
    unfold Memory.write
    split
    · rename_i hac
      split
      · exact h'
      · rename_i hv
        simp only [Memory.wfFrom, Bool.and_eq_true, decide_eq_true_eq]
        exact ⟨⟨⟨hlo, hcap⟩, hv⟩, ⟨⟨by omega, h.1.1.2⟩, h.1.2⟩, h.2⟩
    · split
      · rename_i hac
        subst hac
        split
        · exact Memory.wfFrom_mono (by omega) h.2
        · rename_i hv
          simp only [Memory.wfFrom, Bool.and_eq_true, decide_eq_true_eq]
          exact ⟨⟨⟨hlo, hcap⟩, hv⟩, h.2⟩
      · simp only [Memory.wfFrom, Bool.and_eq_true, decide_eq_true_eq]
        exact ⟨h.1, Memory.wfFrom_write v hcap m (by omega) h.2⟩

/-- Every write of an existing address keeps a memory canonical. -/
theorem Memory.wf_write {cap a : Nat} (v : BitVec w) (hcap : a < cap) {m : Memory w}
    (h : Memory.wf cap m = true) : Memory.wf cap (Memory.write a v m) = true :=
  Memory.wfFrom_write v hcap m (Nat.zero_le _) h

/-- The memories after reset are canonical. -/
theorem reset_memories_wf :
    Memory.wf Config.instrCapacity State.reset.instrMem = true ∧
      Memory.wf Config.dataCapacity State.reset.dataMem = true := ⟨rfl, rfl⟩

theorem State.readData_writeData_self {s : State} {a : Nat} (v : Word)
    (h : Memory.wf Config.dataCapacity s.dataMem = true) : (s.writeData a v).readData a = v :=
  Memory.read_write_self v _ h

theorem State.readData_writeData_of_ne (s : State) {a b : Nat} (v : Word) (h : b ≠ a) :
    (s.writeData a v).readData b = s.readData b :=
  Memory.read_write_of_ne v h _

theorem State.readInstr_writeInstr_self {s : State} {a : Nat} (v : InstrWord)
    (h : Memory.wf Config.instrCapacity s.instrMem = true) :
    (s.writeInstr a v).readInstr a = v :=
  Memory.read_write_self v _ h

theorem State.readInstr_writeInstr_of_ne (s : State) {a b : Nat} (v : InstrWord) (h : b ≠ a) :
    (s.writeInstr a v).readInstr b = s.readInstr b :=
  Memory.read_write_of_ne v h _

end Sys2Proof.Machine
end

