-- ==== Sys2Proof/Laws/PerInstr.lean ====
section
/-! SUPPORT. Families of statements made for each instruction. -/

namespace Sys2Proof.Laws.OpcodeInTable

/-- The opcode number of the instruction is one of the 41 of R101, so it is not illegal by R102. -/
def Statement (i : Instr) : Prop := i.fields.op.toNat < 41

theorem halt (p q r : Word) : Statement (.halt p q r) :=
  Nat.le_of_ble_eq_true rfl

theorem noop (p q r : Word) : Statement (.noop p q r) :=
  Nat.le_of_ble_eq_true rfl

theorem addi (p q r : Word) : Statement (.addi p q r) :=
  Nat.le_of_ble_eq_true rfl

theorem addf (p q r : Word) : Statement (.addf p q r) :=
  Nat.le_of_ble_eq_true rfl

theorem subi (p q r : Word) : Statement (.subi p q r) :=
  Nat.le_of_ble_eq_true rfl

theorem subf (p q r : Word) : Statement (.subf p q r) :=
  Nat.le_of_ble_eq_true rfl

theorem muli (p q r : Word) : Statement (.muli p q r) :=
  Nat.le_of_ble_eq_true rfl

theorem mulf (p q r : Word) : Statement (.mulf p q r) :=
  Nat.le_of_ble_eq_true rfl

theorem divi (p q r : Word) : Statement (.divi p q r) :=
  Nat.le_of_ble_eq_true rfl

theorem divf (p q r : Word) : Statement (.divf p q r) :=
  Nat.le_of_ble_eq_true rfl

theorem modi (p q r : Word) : Statement (.modi p q r) :=
  Nat.le_of_ble_eq_true rfl

theorem modf (p q r : Word) : Statement (.modf p q r) :=
  Nat.le_of_ble_eq_true rfl

theorem equi (p q r : Word) : Statement (.equi p q r) :=
  Nat.le_of_ble_eq_true rfl

theorem equf (p q r : Word) : Statement (.equf p q r) :=
  Nat.le_of_ble_eq_true rfl

theorem equs (p q r : Word) : Statement (.equs p q r) :=
  Nat.le_of_ble_eq_true rfl

theorem neqi (p q r : Word) : Statement (.neqi p q r) :=
  Nat.le_of_ble_eq_true rfl

theorem neqf (p q r : Word) : Statement (.neqf p q r) :=
  Nat.le_of_ble_eq_true rfl

theorem neqs (p q r : Word) : Statement (.neqs p q r) :=
  Nat.le_of_ble_eq_true rfl

theorem lthi (p q r : Word) : Statement (.lthi p q r) :=
  Nat.le_of_ble_eq_true rfl

theorem lthf (p q r : Word) : Statement (.lthf p q r) :=
  Nat.le_of_ble_eq_true rfl

theorem lths (p q r : Word) : Statement (.lths p q r) :=
  Nat.le_of_ble_eq_true rfl

theorem ltei (p q r : Word) : Statement (.ltei p q r) :=
  Nat.le_of_ble_eq_true rfl

theorem ltef (p q r : Word) : Statement (.ltef p q r) :=
  Nat.le_of_ble_eq_true rfl

theorem ltes (p q r : Word) : Statement (.ltes p q r) :=
  Nat.le_of_ble_eq_true rfl

theorem gthi (p q r : Word) : Statement (.gthi p q r) :=
  Nat.le_of_ble_eq_true rfl

theorem gthf (p q r : Word) : Statement (.gthf p q r) :=
  Nat.le_of_ble_eq_true rfl

theorem gths (p q r : Word) : Statement (.gths p q r) :=
  Nat.le_of_ble_eq_true rfl

theorem gtei (p q r : Word) : Statement (.gtei p q r) :=
  Nat.le_of_ble_eq_true rfl

theorem gtef (p q r : Word) : Statement (.gtef p q r) :=
  Nat.le_of_ble_eq_true rfl

theorem gtes (p q r : Word) : Statement (.gtes p q r) :=
  Nat.le_of_ble_eq_true rfl

theorem jump (p q r : Word) : Statement (.jump p q r) :=
  Nat.le_of_ble_eq_true rfl

theorem botb (p q r : Word) : Statement (.botb p q r) :=
  Nat.le_of_ble_eq_true rfl

theorem bofb (p q r : Word) : Statement (.bofb p q r) :=
  Nat.le_of_ble_eq_true rfl

theorem ldwi (p q r : Word) : Statement (.ldwi p q r) :=
  Nat.le_of_ble_eq_true rfl

theorem ldwf (p q r : Word) : Statement (.ldwf p q r) :=
  Nat.le_of_ble_eq_true rfl

theorem ldii (p q r : Word) : Statement (.ldii p q r) :=
  Nat.le_of_ble_eq_true rfl

theorem ldif (p q r : Word) : Statement (.ldif p q r) :=
  Nat.le_of_ble_eq_true rfl

theorem stwi (p q r : Word) : Statement (.stwi p q r) :=
  Nat.le_of_ble_eq_true rfl

theorem stwf (p q r : Word) : Statement (.stwf p q r) :=
  Nat.le_of_ble_eq_true rfl

theorem sstr (p q r : Word) : Statement (.sstr p q r) :=
  Nat.le_of_ble_eq_true rfl

theorem call (p q r : Word) : Statement (.call p q r) :=
  Nat.le_of_ble_eq_true rfl

end Sys2Proof.Laws.OpcodeInTable
end

