-- ==== Sys2Proof/Laws/Registers.lean ====
section
/-! SUPPORT. The register file: what is read after a write (`spec/10_state.md` R25, R26). -/

namespace Sys2Proof.Machine

@[simp] theorem State.readX_writeX_self (s : State) (i : Fin 32) (v : Word) :
    (s.writeX i v).readX i = v := by
  simp [State.readX, State.writeX]

theorem State.readX_writeX_of_ne (s : State) {i j : Fin 32} (v : Word) (h : j ≠ i) :
    (s.writeX i v).readX j = s.readX j := by
  have : i.val ≠ j.val := fun e => h (Fin.ext e.symm)
  simp [State.readX, State.writeX, this]

@[simp] theorem State.readF_writeX (s : State) (i j : Fin 32) (v : Word) :
    (s.writeX i v).readF j = s.readF j := by
  have : i.val ≠ 32 + j.val := by omega
  simp [State.readF, State.writeX, this]

@[simp] theorem State.readF_writeF_self (s : State) (i : Fin 32) (v : Word) :
    (s.writeF i v).readF i = v := by
  simp [State.readF, State.writeF]

theorem State.readF_writeF_of_ne (s : State) {i j : Fin 32} (v : Word) (h : j ≠ i) :
    (s.writeF i v).readF j = s.readF j := by
  have : i.val ≠ j.val := fun e => h (Fin.ext e.symm)
  simp [State.readF, State.writeF, this]

@[simp] theorem State.readX_writeF (s : State) (i j : Fin 32) (v : Word) :
    (s.writeF i v).readX j = s.readX j := by
  have : 32 + i.val ≠ j.val := by omega
  simp [State.readX, State.writeF, this]

end Sys2Proof.Machine
end

