-- ==== Sys2Proof/Laws/Step.lean ====
section
/-! SUPPORT. Everything a step can do (`spec/40_engine_cycle.md` R126). -/

namespace Sys2Proof.Machine

theorem step_of_not_running {s : State} (h : s.run ≠ .running) : step s = .next s := by
  unfold step
  cases hr : s.run <;> first | rfl | exact absurd hr h

theorem fetch_of_toInt {s : State} {a : Nat} (ha : a < Config.instrCapacity)
    (hpc : s.pc.toInt = (a : Int)) : fetch s = some (s.readInstr a) := by
  have : index? Config.instrCapacity s.pc = some ⟨a, ha⟩ := index?_eq_some_iff.2 hpc
  simp [fetch, this]

theorem fetch_eq_none_iff {s : State} :
    fetch s = none ↔ s.pc.toInt < 0 ∨ 1024 ≤ s.pc.toInt := by
  refine Iff.trans ?_ (index?_eq_none_iff (n := Config.instrCapacity) (o := s.pc))
  unfold fetch
  split <;> simp_all

theorem step_of_fetch_none {s : State} (hr : s.run = .running) (hf : fetch s = none) :
    step s = .next (s.takeFault .instructionAddressOutOfRange none) := by
  simp [step, hr, hf, fetchFault]

theorem step_of_decode_error {s : State} {w : InstrWord} {e : DecodeReject}
    (hr : s.run = .running) (hf : fetch s = some w) (hd : decode w = .error e) :
    step s = .next (s.takeFault .invalidOpcode (some (splitWord w))) := by
  simp [step, hr, hf, hd, decodeFault]

theorem step_of_decode_ok {s : State} {w : InstrWord} {i : Instr}
    (hr : s.run = .running) (hf : fetch s = some w) (hd : decode w = .ok i) :
    step s = exec i s := by
  simp [step, hr, hf, hd]

/-- Everything a step can do: nothing when not Running, one of the two faults of the step itself, or
the meaning of the fetched instruction. -/
theorem step_cases {s t : State} (h : step s = .next t) :
    (s.run ≠ .running ∧ t = s) ∨
      (s.run = .running ∧ fetch s = none ∧ t = s.takeFault .instructionAddressOutOfRange none) ∨
      (s.run = .running ∧ ∃ w e, fetch s = some w ∧ decode w = .error e ∧
        t = s.takeFault .invalidOpcode (some (splitWord w))) ∨
      (s.run = .running ∧ ∃ w i, fetch s = some w ∧ decode w = .ok i ∧ exec i s = .next t) := by
  by_cases hr : s.run = .running
  · cases hf : fetch s with
    | none =>
      rw [step_of_fetch_none hr hf] at h
      exact .inr (.inl ⟨hr, rfl, (next_inj h).symm⟩)
    | some w =>
      cases hd : decode w with
      | error e =>
        rw [step_of_decode_error hr hf hd] at h
        exact .inr (.inr (.inl ⟨hr, w, e, rfl, hd, (next_inj h).symm⟩))
      | ok i =>
        rw [step_of_decode_ok hr hf hd] at h
        exact .inr (.inr (.inr ⟨hr, w, i, rfl, hd, h⟩))
  · rw [step_of_not_running hr] at h
    exact .inl ⟨hr, (next_inj h).symm⟩

/-! ### Waiting -/

/-- A read service that has started its read and finds no token leaves the state as it is. -/
theorem runService_of_blocked {i : Instr} {x : Word} {s : State} {v : Service}
    (hr : s.startsRead x v = true) (hb : s.nextToken = .blocked) : runService i x s v = s := by
  have hs (store : Text → State → Except FaultKind State) : readService i s store = s := by
    simp only [readService, hb]
  have hreg {body : Fin 32 → State} (h : (reg? x).isSome = true) (hbody : ∀ r, body r = s) :
      withReg i x s body = s := by
    obtain ⟨r, hr⟩ := Option.isSome_iff_exists.1 h
    rw [withReg_of_some hr, hbody]
  cases v with
  | readInt => exact hreg hr fun _ => hs _
  | readFloat => exact hreg hr fun _ => hs _
  | readBool => exact hreg hr fun _ => hs _
  | readString =>
    obtain ⟨t, ht⟩ := Option.isSome_iff_exists.1 hr
    show readStringService i x s = s
    simp only [readStringService, withSlot, ht, hs]
  | writeInt => cases hr
  | writeFloat => cases hr
  | writeBool => cases hr
  | writeString => cases hr

theorem exec_of_waitsIn {i : Instr} {s : State} (h : s.WaitsIn i) : exec i s = .next s := by
  obtain ⟨code, x, u3, v, rfl, hv, hr, hb⟩ := h
  show Host.Outcome.next _ = _
  simp only [hv, runService_of_blocked hr hb]

theorem step_of_waiting {s : State} (h : s.Waiting) : step s = .next s := by
  obtain ⟨hr, w, i, hf, hd, hw⟩ := h
  rw [step_of_decode_ok hr hf hd, exec_of_waitsIn hw]

/-! ### Several steps -/

/-- If `k + 1` steps answer a next state, so does the first of them, and the other `k` from there. -/
theorem run_succ_next {M : Host.Core} {k : Nat} {s t : M.State} (h : M.run (k + 1) s = .next t) :
    ∃ u, M.step s = .next u ∧ M.run k u = .next t := by
  simp only [Host.Core.run] at h
  split at h
  · rename_i u hu
    exact ⟨u, hu, h⟩
  · cases h
  · cases h

theorem run_succ_of_next {M : Host.Core} {s u : M.State} (k : Nat) (h : M.step s = .next u) :
    M.run (k + 1) s = M.run k u := by
  simp only [Host.Core.run, h]

end Sys2Proof.Machine
end

