-- ==== Sys2Proof/Tests/Slice0.lean ====
section
/-! SUPPORT. Tests. The expected results are those of the spec's own vectors
(`spec/95_test_vectors.md`, cited by number), its worked encodings (`spec/30_encoding.md` R114) and
its tables; nothing here is the model's own answer pasted back. -/

namespace Sys2Proof.Tests

open Machine Claim

/-! ### Helpers -/

/-- A running machine with eight empty slots and the end of `IN` marked, all else at reset. -/
def base : State :=
  { State.reset with run := .running, strTable := List.replicate 8 [], inEnded := true }

/-- The same machine with bytes supplied on `IN`. -/
def withInput (s : State) (bytes : List Byte) : State := { s with inBytes := bytes }

/-- The same machine with a constant pool. -/
def withPool (s : State) (entries : List Text) : State := { s with pool := entries }

/-- One step from `s` with the word `w` at `pc` leaves a state with `p`. -/
def gives (s : State) (w : Nat) (p : State → Bool) : Bool :=
  match step (s.withFetchWord 128 w) with
  | .next t => p t
  | .fault _ => false
  | .refused _ => false

/-! ### Decoding: a word of every row, written from R90 and the opcode numbers of R101 -/

theorem test_decode_control :
    decode 0x00000000000000000000000000000000#128 = .ok (.halt 0 0 0) ∧
    decode 0x00000001FFFFFFFF0000000600000007#128 = .ok (.noop 0xFFFFFFFF 6 7) := by
  decide

theorem test_decode_arithmetic :
    decode 0x000000020000000F0000000000000005#128 = .ok (.addi 15 0 5) ∧
    decode 0x00000003000000160000000300000002#128 = .ok (.addf 22 3 2) ∧
    decode 0x000000040000001D0000000600000007#128 = .ok (.subi 29 6 7) ∧
    decode 0x00000005000000040000000100000004#128 = .ok (.subf 4 1 4) ∧
    decode 0x000000060000000B0000000400000001#128 = .ok (.muli 11 4 1) ∧
    decode 0x00000007000000120000000700000006#128 = .ok (.mulf 18 7 6) ∧
    decode 0x00000008000000190000000200000003#128 = .ok (.divi 25 2 3) ∧
    decode 0x00000009000000000000000500000000#128 = .ok (.divf 0 5 0) ∧
    decode 0x0000000A000000070000000000000005#128 = .ok (.modi 7 0 5) ∧
    decode 0x0000000B0000000E0000000300000002#128 = .ok (.modf 14 3 2) := by
  decide

theorem test_decode_int_relations :
    decode 0x0000000C000000150000000600000007#128 = .ok (.equi 21 6 7) ∧
    decode 0x0000000F0000000A0000000700000006#128 = .ok (.neqi 10 7 6) ∧
    decode 0x000000120000001F0000000000000005#128 = .ok (.lthi 31 0 5) ∧
    decode 0x00000015000000140000000100000004#128 = .ok (.ltei 20 1 4) ∧
    decode 0x00000018000000090000000200000003#128 = .ok (.gthi 9 2 3) ∧
    decode 0x0000001B0000001E0000000300000002#128 = .ok (.gtei 30 3 2) := by
  decide

theorem test_decode_float_relations :
    decode 0x0000000D0000001C0000000100000004#128 = .ok (.equf 28 1 4) ∧
    decode 0x00000010000000110000000200000003#128 = .ok (.neqf 17 2 3) ∧
    decode 0x00000013000000060000000300000002#128 = .ok (.lthf 6 3 2) ∧
    decode 0x000000160000001B0000000400000001#128 = .ok (.ltef 27 4 1) ∧
    decode 0x00000019000000100000000500000000#128 = .ok (.gthf 16 5 0) ∧
    decode 0x0000001C000000050000000600000007#128 = .ok (.gtef 5 6 7) := by
  decide

theorem test_decode_string_relations :
    decode 0x0000000E000000030000000400000001#128 = .ok (.equs 3 4 1) ∧
    decode 0x00000011000000180000000500000000#128 = .ok (.neqs 24 5 0) ∧
    decode 0x000000140000000D0000000600000007#128 = .ok (.lths 13 6 7) ∧
    decode 0x00000017000000020000000700000006#128 = .ok (.ltes 2 7 6) ∧
    decode 0x0000001A000000170000000000000005#128 = .ok (.gths 23 0 5) ∧
    decode 0x0000001D0000000C0000000100000004#128 = .ok (.gtes 12 1 4) := by
  decide

theorem test_decode_transfer :
    decode 0x0000001E00000003DEADBEEF12345678#128 = .ok (.jump 3 0xDEADBEEF 0x12345678) ∧
    decode 0x0000001F00000000000000047FFFFFFF#128 = .ok (.botb 0 4 0x7FFFFFFF) ∧
    decode 0x0000002000000003FFFFFFFE00000000#128 = .ok (.bofb 3 0xFFFFFFFE 0) := by
  decide

theorem test_decode_load_store :
    decode 0x0000002100000004000003FF00000000#128 = .ok (.ldwi 4 1023 0) ∧
    decode 0x00000022000000020000000A00000000#128 = .ok (.ldwf 2 10 0) ∧
    decode 0x00000023000000058000000000000000#128 = .ok (.ldii 5 0x80000000 0) ∧
    decode 0x00000024000000013F80000000000000#128 = .ok (.ldif 1 0x3F800000 0) ∧
    decode 0x00000025000000140000000300000000#128 = .ok (.stwi 20 3 0) ∧
    decode 0x00000026000000070000000200000000#128 = .ok (.stwf 7 2 0) := by
  decide

theorem test_decode_string_store_and_call :
    decode 0x00000027000000010000000000000000#128 = .ok (.sstr 1 0 0) ∧
    decode 0x00000028000000040000000200000000#128 = .ok (.call 4 2 0) := by
  decide

/-- R102: the first illegal opcode number and the last, each rejected by name. -/
theorem test_decode_rejects :
    decode 0x00000029000000630000000500000007#128 = .error (.invalidOpcode 41) ∧
    decode 0xFFFFFFFF000000000000000000000000#128 = .error (.invalidOpcode 0xFFFFFFFF) := by
  decide

/-- The worked encodings of R114, encoded. -/
theorem test_encode :
    encode (.addi 2 0 1) = 0x00000002000000020000000000000001#128 ∧
    encode (.bofb 3 (-2) 0) = 0x0000002000000003FFFFFFFE00000000#128 ∧
    encode (.ldif 1 0x3F800000 0) = 0x00000024000000013F80000000000000#128 := by
  decide

theorem test_decodeTableWord :
    decodeTableWord 128 0x0000000E000000280000270F00000000 = some (.equs 40 9999 0) ∧
    decodeTableWord 128 0x00000029000000000000000000000000 = none := by
  decide

/-! ### Well-formedness: each check of each format refuses a term -/

theorem test_wf_refuses_registers :
    (Instr.addi 32 0 0).WellFormed = false ∧ (Instr.addi 0 (-1) 0).WellFormed = false ∧
    (Instr.addi 0 0 32).WellFormed = false ∧ (Instr.mulf 0 0 0x80000000).WellFormed = false ∧
    (Instr.equf 32 0 0).WellFormed = false ∧ (Instr.equs 32 0 0).WellFormed = false ∧
    (Instr.botb 32 0 0).WellFormed = false ∧ (Instr.bofb (-1) 0 0).WellFormed = false ∧
    (Instr.ldwi 32 0 0).WellFormed = false ∧ (Instr.ldif 32 0 0).WellFormed = false ∧
    (Instr.stwf 0 32 0).WellFormed = false ∧ (Instr.call 4 32 0).WellFormed = false := by
  refine ⟨?_, ?_, ?_, ?_, ?_, ?_, ?_, ?_, ?_, ?_, ?_, ?_⟩ <;> rfl

theorem test_wf_refuses_addresses :
    (Instr.ldwi 0 1024 0).WellFormed = false ∧ (Instr.ldwf 0 (-1) 0).WellFormed = false ∧
    (Instr.stwi 1024 0 0).WellFormed = false ∧ (Instr.stwf (-1) 0 0).WellFormed = false := by
  decide

theorem test_wf_refuses_codes :
    (Instr.call 8 0 0).WellFormed = false ∧ (Instr.call (-1) 0 0).WellFormed = false := by
  decide

theorem test_wf_refuses_slots :
    (Instr.equs 0 (-1) 0).WellFormed = false ∧ (Instr.gtes 0 0 (-1)).WellFormed = false ∧
    (Instr.sstr (-1) 0 0).WellFormed = false ∧ (Instr.call 3 (-1) 0).WellFormed = false ∧
    (Instr.call 7 0x80000000 0).WellFormed = false := by
  simp [Instr.WellFormed, isSlot, inRange]

theorem test_wf_accepts :
    (Instr.addi 31 0 31).WellFormed = true ∧ (Instr.ldwi 0 1023 7).WellFormed = true ∧
    (Instr.jump 5000 1 2).WellFormed = true ∧ (Instr.call 7 0 0).WellFormed = true := by
  refine ⟨by decide, by decide, by decide, ?_⟩
  simp [Instr.WellFormed, isSlot, isCode, inRange, Config.strCapacity]

/-! ### The step itself, and the host -/

/-- Vectors F1 to F3: a fetch outside the instruction memory. -/
theorem test_fetch_faults :
    step (base.setPc 1024) =
      .next { base.setPc 1024 with
        run := .faulted, fr := ⟨some .instructionAddressOutOfRange, 1024, false, ⟨0, 0, 0, 0⟩⟩ } ∧
    step (base.setPc (-1)) =
      .next { base.setPc (-1) with
        run := .faulted, fr := ⟨some .instructionAddressOutOfRange, -1, false, ⟨0, 0, 0, 0⟩⟩ } :=
  ⟨rfl, rfl⟩

/-- Vector F5: an illegal opcode, with its raw fields recorded. -/
theorem test_illegal_opcode : gives base 0x00000029000000630000000500000007
    fun t => t.fr = ⟨some .invalidOpcode, 0, true, ⟨41, 99, 5, 7⟩⟩ ∧ t.run = .faulted := by
  decide

/-- R267: a read with no whole token yet waits, and waits no longer once the token has ended. -/
theorem test_read_waits :
    exec (.call 0 0 0) { withInput base [0x35] with inEnded := false } =
      .next { withInput base [0x35] with inEnded := false } ∧
    gives { withInput base [0x35, 0x0A] with inEnded := false } 0x00000028000000000000000000000000
      fun t => t.readX 0 = 5 ∧ t.inPos = 1 :=
  ⟨rfl, by decide⟩

/-- R38, R39, R280: what the host reads after a fault. -/
theorem test_status :
    (base.takeFault .ioParseError none).fr.kindCode = 10 ∧
    (base.takeFault .ioParseError none).exitStatus = some 1 ∧ base.halt.exitStatus = some 0 ∧
    RunState.faulted.code = 3 := by
  decide

/-- R324, R326: loads outside the memories or outside Loaded are refused by name. -/
theorem test_host_refusals :
    hostAct (.writeData 1024 0) State.reset = .refused .hostLoadOutOfBounds ∧
    hostAct (.writeInstr 0 0) base = .refused .hostWriteNotLoaded ∧
    hostAct (.appendInput [0x35]) base = .refused .inputAfterEnd :=
  ⟨rfl, rfl, rfl⟩

/-! ### One step of each instruction, on the spec's vectors -/

/-- Vector T1: `HALT`. -/
theorem test_halt_T1 : gives (base.setPc 7)
    0x00000000000000000000000000000000
    fun t => t.run = .halted ∧ t.pc = 7 := by
  decide

/-- Vector T3: `NOOP`. -/
theorem test_noop_T3 : gives (base.setPc 1023)
    0x00000001000000000000000000000000
    fun t => t.pc = 1024 := by
  decide

/-- Vector T5: `ADDi 0,1,2`. -/
theorem test_addi_T5 : gives ((base.writeX 1 2147483647).writeX 2 1)
    0x00000002000000000000000100000002
    fun t => t.readX 0 = 0x80000000 ∧ t.pc = 1 := by
  decide

/-- Vector T7: `ADDi 1,1,1`. -/
theorem test_addi_T7 : gives (base.writeX 1 21)
    0x00000002000000010000000100000001
    fun t => t.readX 1 = 42 ∧ t.pc = 1 := by
  decide

/-- Vector T32: `ADDf 2,0,1`. -/
theorem test_addf_T32 : gives ((base.writeF 0 0x4B800000).writeF 1 0x3F800000)
    0x00000003000000020000000000000001
    fun t => t.readF 2 = 0x4B800000 ∧ t.pc = 1 := by
  decide

/-- Vector T34: `ADDf 2,0,1`. -/
theorem test_addf_T34 : gives ((base.writeF 0 0x3DCCCCCD).writeF 1 0x3E4CCCCD)
    0x00000003000000020000000000000001
    fun t => t.readF 2 = 0x3E99999A ∧ t.pc = 1 := by
  decide

/-- Vector T9: `SUBi 0,2,1`. -/
theorem test_subi_T9 : gives ((base.writeX 1 10).writeX 2 3)
    0x00000004000000000000000200000001
    fun t => t.readX 0 = 0xFFFFFFF9 ∧ t.pc = 1 := by
  decide

/-- Vector T10: `SUBi 0,1,2`. -/
theorem test_subi_T10 : gives ((base.writeX 1 0x80000000).writeX 2 1)
    0x00000004000000000000000100000002
    fun t => t.readX 0 = 2147483647 ∧ t.pc = 1 := by
  decide

/-- Vector T36: `SUBf 2,0,1`. -/
theorem test_subf_T36 : gives ((base.writeF 0 0x40A00000).writeF 1 0x40000000)
    0x00000005000000020000000000000001
    fun t => t.readF 2 = 0x40400000 ∧ t.pc = 1 := by
  decide

/-- Vector T13: `MULi 0,1,2`. -/
theorem test_muli_T13 : gives ((base.writeX 1 46341).writeX 2 46341)
    0x00000006000000000000000100000002
    fun t => t.readX 0 = 0x80001219 ∧ t.pc = 1 := by
  decide

/-- Vector T39: `MULf 2,0,1`. -/
theorem test_mulf_T39 : gives ((base.writeF 0 0xC0000000).writeF 1 0x00000000)
    0x00000007000000020000000000000001
    fun t => t.readF 2 = 0x80000000 ∧ t.pc = 1 := by
  decide

/-- Vector T40: `MULf 2,0,1`. -/
theorem test_mulf_T40 : gives ((base.writeF 0 0x00800000).writeF 1 0x3F000000)
    0x00000007000000020000000000000001
    fun t => t.readF 2 = 0x00400000 ∧ t.pc = 1 := by
  decide

/-- Vector T16: `DIVi 0,1,2`. -/
theorem test_divi_T16 : gives ((base.writeX 1 0xFFFFFFF9).writeX 2 2)
    0x00000008000000000000000100000002
    fun t => t.readX 0 = 0xFFFFFFFD ∧ t.pc = 1 := by
  decide

/-- Vector T21: `DIVi 0,1,2`. -/
theorem test_divi_T21 : gives (((base.writeX 1 10).writeX 2 0).writeX 0 55)
    0x00000008000000000000000100000002
    fun t => t.fr.kind = some .divisionByZero ∧ t.fr.pc = 0 ∧ t.pc = 0 := by
  decide

/-- Vector T41: `DIVf 2,0,1`. -/
theorem test_divf_T41 : gives ((base.writeF 0 0x3F800000).writeF 1 0x40400000)
    0x00000009000000020000000000000001
    fun t => t.readF 2 = 0x3EAAAAAB ∧ t.pc = 1 := by
  decide

/-- Vector T44: `DIVf 2,0,1`. -/
theorem test_divf_T44 : gives ((base.writeF 0 0x3F800000).writeF 1 0x80000000)
    0x00000009000000020000000000000001
    fun t => t.readF 2 = 0xFF800000 ∧ t.pc = 1 := by
  decide

/-- Vector T23: `MODi 0,1,2`. -/
theorem test_modi_T23 : gives ((base.writeX 1 0xFFFFFFF9).writeX 2 2)
    0x0000000A000000000000000100000002
    fun t => t.readX 0 = 0xFFFFFFFF ∧ t.pc = 1 := by
  decide

/-- Vector T26: `MODi 0,1,2`. -/
theorem test_modi_T26 : gives (((base.writeX 1 0x80000000).writeX 2 0xFFFFFFFF).writeX 0 5)
    0x0000000A000000000000000100000002
    fun t => t.readX 0 = 0 ∧ t.pc = 1 := by
  decide

/-- Vector T47: `MODf 2,0,1`. -/
theorem test_modf_T47 : gives ((base.writeF 0 0xC0B00000).writeF 1 0x40000000)
    0x0000000B000000020000000000000001
    fun t => t.readF 2 = 0xBFC00000 ∧ t.pc = 1 := by
  decide

/-- Vector T49: `MODf 2,0,1`. -/
theorem test_modf_T49 : gives ((base.writeF 0 0xC0C00000).writeF 1 0x40400000)
    0x0000000B000000020000000000000001
    fun t => t.readF 2 = 0x80000000 ∧ t.pc = 1 := by
  decide

/-- Vector T61: `EQUi 2,0,1`. -/
theorem test_equi_T61 : gives ((base.writeX 0 0).writeX 1 0)
    0x0000000C000000020000000000000001
    fun t => t.readX 2 = 1 ∧ t.pc = 1 := by
  decide

/-- Vector T62: `EQUi 2,0,1`. -/
theorem test_equi_T62 : gives (((base.writeX 0 5).writeX 1 0).writeX 2 9)
    0x0000000C000000020000000000000001
    fun t => t.readX 2 = 0 ∧ t.pc = 1 := by
  decide

/-- Vector T74: `EQUf 3,0,1`. -/
theorem test_equf_T74 : gives ((base.writeF 0 0x00000000).writeF 1 0x80000000)
    0x0000000D000000030000000000000001
    fun t => t.readX 3 = 1 ∧ t.pc = 1 := by
  decide

/-- Vector T75: `EQUf 3,0,0`. -/
theorem test_equf_T75 : gives ((base.writeX 3 9).writeF 0 0x7FC00000)
    0x0000000D000000030000000000000000
    fun t => t.readX 3 = 0 ∧ t.pc = 1 := by
  decide

/-- Vector T90: `EQUs 5,0,1`. -/
theorem test_equs_T90 : gives (((base.writeX 5 9).writeSlot 0 [0x61, 0x62, 0x63]).writeSlot 1 [0x61, 0x62, 0x63, 0x20])
    0x0000000E000000050000000000000001
    fun t => t.readX 5 = 0 ∧ t.pc = 1 := by
  decide

/-- Vector T107: `EQUs 40,9999,0`. -/
theorem test_equs_T107 : gives base
    0x0000000E000000280000270F00000000
    fun t => t.fr.kind = some .operandOutOfRange ∧ t.fr.pc = 0 ∧ t.pc = 0 := by
  decide

/-- Vector T63: `NEQi 0,1,2`. -/
theorem test_neqi_T63 : gives ((base.writeX 1 3).writeX 2 4)
    0x0000000F000000000000000100000002
    fun t => t.readX 0 = 1 ∧ t.pc = 1 := by
  decide

/-- Vector T76: `NEQf 3,0,0`. -/
theorem test_neqf_T76 : gives (base.writeF 0 0x7FC00000)
    0x00000010000000030000000000000000
    fun t => t.readX 3 = 1 ∧ t.pc = 1 := by
  decide

/-- Vector T77: `NEQf 3,0,1`. -/
theorem test_neqf_T77 : gives (((base.writeX 3 9).writeF 0 0x00000000).writeF 1 0x80000000)
    0x00000010000000030000000000000001
    fun t => t.readX 3 = 0 ∧ t.pc = 1 := by
  decide

/-- Vector T92: `NEQs 5,0,1`. -/
theorem test_neqs_T92 : gives ((base.writeSlot 0 [0x61, 0x62, 0x63]).writeSlot 1 [0x61, 0x62, 0x64])
    0x00000011000000050000000000000001
    fun t => t.readX 5 = 1 ∧ t.pc = 1 := by
  decide

/-- Vector T64: `LTHi 0,1,2`. -/
theorem test_lthi_T64 : gives ((base.writeX 1 0xFFFFFFFF).writeX 2 1)
    0x00000012000000000000000100000002
    fun t => t.readX 0 = 1 ∧ t.pc = 1 := by
  decide

/-- Vector T65: `LTHi 0,1,2`. -/
theorem test_lthi_T65 : gives (((base.writeX 1 1).writeX 2 0xFFFFFFFF).writeX 0 9)
    0x00000012000000000000000100000002
    fun t => t.readX 0 = 0 ∧ t.pc = 1 := by
  decide

/-- Vector T78: `LTHf 3,0,1`. -/
theorem test_lthf_T78 : gives ((base.writeF 0 0xC0000000).writeF 1 0xBF800000)
    0x00000013000000030000000000000001
    fun t => t.readX 3 = 1 ∧ t.pc = 1 := by
  decide

/-- Vector T80: `LTHf 3,0,1`. -/
theorem test_lthf_T80 : gives (((base.writeX 3 9).writeF 0 0x7FC00000).writeF 1 0x3F800000)
    0x00000013000000030000000000000001
    fun t => t.readX 3 = 0 ∧ t.pc = 1 := by
  decide

/-- Vector T94: `LTHs 5,0,1`. -/
theorem test_lths_T94 : gives ((base.writeSlot 0 [0x61, 0x62]).writeSlot 1 [0x61, 0x62, 0x63])
    0x00000014000000050000000000000001
    fun t => t.readX 5 = 1 ∧ t.pc = 1 := by
  decide

/-- Vector T95: `LTHs 5,0,1`. -/
theorem test_lths_T95 : gives ((base.writeSlot 0 [0x5A]).writeSlot 1 [0x61])
    0x00000014000000050000000000000001
    fun t => t.readX 5 = 1 ∧ t.pc = 1 := by
  decide

/-- Vector T67: `LTEi 0,1,2`. -/
theorem test_ltei_T67 : gives ((base.writeX 1 4).writeX 2 4)
    0x00000015000000000000000100000002
    fun t => t.readX 0 = 1 ∧ t.pc = 1 := by
  decide

/-- Vector T82: `LTEf 3,0,1`. -/
theorem test_ltef_T82 : gives ((base.writeF 0 0x80000000).writeF 1 0x00000000)
    0x00000016000000030000000000000001
    fun t => t.readX 3 = 1 ∧ t.pc = 1 := by
  decide

/-- Vector T99: `LTEs 5,0,1`. -/
theorem test_ltes_T99 : gives (((base.writeX 5 9).writeSlot 0 [0x61, 0x62, 0x64]).writeSlot 1 [0x61, 0x62, 0x63])
    0x00000017000000050000000000000001
    fun t => t.readX 5 = 0 ∧ t.pc = 1 := by
  decide

/-- Vector T100: `LTEs 5,0,1`. -/
theorem test_ltes_T100 : gives ((base.writeSlot 0 [0x61, 0x62, 0x63]).writeSlot 1 [0x61, 0x62, 0x63])
    0x00000017000000050000000000000001
    fun t => t.readX 5 = 1 ∧ t.pc = 1 := by
  decide

/-- Vector T68: `GTHi 0,1,2`. -/
theorem test_gthi_T68 : gives ((base.writeX 1 10).writeX 2 0)
    0x00000018000000000000000100000002
    fun t => t.readX 0 = 1 ∧ t.pc = 1 := by
  decide

/-- Vector T69: `GTHi 0,1,2`. -/
theorem test_gthi_T69 : gives (((base.writeX 1 4).writeX 2 4).writeX 0 9)
    0x00000018000000000000000100000002
    fun t => t.readX 0 = 0 ∧ t.pc = 1 := by
  decide

/-- Vector T83: `GTHf 3,0,1`. -/
theorem test_gthf_T83 : gives ((base.writeF 0 0x7F800000).writeF 1 0x7F7FFFFF)
    0x00000019000000030000000000000001
    fun t => t.readX 3 = 1 ∧ t.pc = 1 := by
  decide

/-- Vector T101: `GTHs 5,0,1`. -/
theorem test_gths_T101 : gives ((base.writeSlot 0 [0x62]).writeSlot 1 [0x61, 0x62, 0x63])
    0x0000001A000000050000000000000001
    fun t => t.readX 5 = 1 ∧ t.pc = 1 := by
  decide

/-- Vector T70: `GTEi 0,1,2`. -/
theorem test_gtei_T70 : gives (((base.writeX 1 0xFFFFFFFB).writeX 2 3).writeX 0 9)
    0x0000001B000000000000000100000002
    fun t => t.readX 0 = 0 ∧ t.pc = 1 := by
  decide

/-- Vector T71: `GTEi 0,1,2`. -/
theorem test_gtei_T71 : gives ((base.writeX 1 3).writeX 2 3)
    0x0000001B000000000000000100000002
    fun t => t.readX 0 = 1 ∧ t.pc = 1 := by
  decide

/-- Vector T85: `GTEf 3,0,1`. -/
theorem test_gtef_T85 : gives (((base.writeX 3 9).writeF 0 0x7FC00000).writeF 1 0x3F800000)
    0x0000001C000000030000000000000001
    fun t => t.readX 3 = 0 ∧ t.pc = 1 := by
  decide

/-- Vector T86: `GTEf 3,0,1`. -/
theorem test_gtef_T86 : gives ((base.writeF 0 0x00000000).writeF 1 0x80000000)
    0x0000001C000000030000000000000001
    fun t => t.readX 3 = 1 ∧ t.pc = 1 := by
  decide

/-- Vector T103: `GTEs 5,0,1`. -/
theorem test_gtes_T103 : gives ((base.writeX 5 9).writeSlot 1 [0x61])
    0x0000001D000000050000000000000001
    fun t => t.readX 5 = 0 ∧ t.pc = 1 := by
  decide

/-- Vector T104: `GTEs 5,0,1`. -/
theorem test_gtes_T104 : gives ((base.writeSlot 0 [0x61]).writeSlot 1 [0x61])
    0x0000001D000000050000000000000001
    fun t => t.readX 5 = 1 ∧ t.pc = 1 := by
  decide

/-- Vector T111: `JUMP -1`. -/
theorem test_jump_T111 : gives (base.setPc 4)
    0x0000001EFFFFFFFF0000000000000000
    fun t => t.pc = 0xFFFFFFFF := by
  decide

/-- Vector T113: `BOTb 2,2`. -/
theorem test_botb_T113 : gives ((base.setPc 3).writeX 2 1)
    0x0000001F000000020000000200000000
    fun t => t.pc = 5 := by
  decide

/-- Vector T115: `BOTb 2,2`. -/
theorem test_botb_T115 : gives ((base.setPc 3).writeX 2 2)
    0x0000001F000000020000000200000000
    fun t => t.fr.kind = some .invalidBooleanValue ∧ t.fr.pc = 3 ∧ t.pc = 3 := by
  decide

/-- Vector T117: `BOFb 3,-2`. -/
theorem test_bofb_T117 : gives ((base.setPc 6).writeX 3 0)
    0x0000002000000003FFFFFFFE00000000
    fun t => t.pc = 4 := by
  decide

/-- Vector T118: `BOFb 3,-2`. -/
theorem test_bofb_T118 : gives ((base.setPc 6).writeX 3 1)
    0x0000002000000003FFFFFFFE00000000
    fun t => t.pc = 7 := by
  decide

/-- Vector T129: `LDWi 4,1023`. -/
theorem test_ldwi_T129 : gives (base.writeData 1023 0x00000005)
    0x0000002100000004000003FF00000000
    fun t => t.readX 4 = 5 ∧ t.pc = 1 := by
  decide

/-- Vector T130: `LDWi 4,1024`. -/
theorem test_ldwi_T130 : gives (base.writeX 4 9)
    0x00000021000000040000040000000000
    fun t => t.fr.kind = some .dataAddressOutOfRange ∧ t.fr.pc = 0 ∧ t.pc = 0 := by
  decide

/-- Vector T135: `LDWf 2,10`. -/
theorem test_ldwf_T135 : gives (base.writeData 10 0x7FA00000)
    0x00000022000000020000000A00000000
    fun t => t.readF 2 = 0x7FA00000 ∧ t.pc = 1 := by
  decide

/-- Vector T138: `LDIi 5,-2147483648`. -/
theorem test_ldii_T138 : gives base
    0x00000023000000058000000000000000
    fun t => t.readX 5 = 0x80000000 ∧ t.pc = 1 := by
  decide

/-- Vector T142: `LDIf 0,-1`. -/
theorem test_ldif_T142 : gives base
    0x0000002400000000FFFFFFFF00000000
    fun t => t.readF 0 = 0xFFFFFFFF ∧ t.pc = 1 := by
  decide

/-- Vector T144: `STWi 20,3`. -/
theorem test_stwi_T144 : gives ((base.writeX 3 0xFFFFFFFF).writeData 20 0x12345678)
    0x00000025000000140000000300000000
    fun t => t.readData 20 = 0xFFFFFFFF ∧ t.pc = 1 := by
  decide

/-- Vector T146: `STWi 0,32`. -/
theorem test_stwi_T146 : gives base
    0x00000025000000000000002000000000
    fun t => t.fr.kind = some .operandOutOfRange ∧ t.fr.pc = 0 ∧ t.pc = 0 := by
  decide

/-- Vector T149: `STWf 7,2`. -/
theorem test_stwf_T149 : gives (base.writeF 2 0x7FA00001)
    0x00000026000000070000000200000000
    fun t => t.readData 7 = 0x7FA00001 ∧ t.pc = 1 := by
  decide

/-- Vector T151: `SSTR 1`. -/
theorem test_sstr_T151 : gives (withPool (base.writeSlot 1 [0x6F, 0x6C, 0x64]) [[0x61, 0x62, 0x63], [0x61, 0x62, 0x64]])
    0x00000027000000010000000000000000
    fun t => t.strTable[1]? = some [0x61, 0x62, 0x64] ∧ t.pc = 1 := by
  decide

/-- Vector T153: `SSTR -1`. -/
theorem test_sstr_T153 : gives (withPool base [[0x61, 0x62, 0x63], [0x61, 0x62, 0x64]])
    0x00000027FFFFFFFF0000000000000000
    fun t => t.fr.kind = some .stringIndexOutOfRange ∧ t.fr.pc = 0 ∧ t.pc = 0 := by
  decide

/-- Vectors T157, T166, T171, T176: services 0 to 3. -/
theorem test_call_reads :
    gives (withInput (base.writeX 0 9) [0x20, 0x20, 0x0A, 0x09, 0x2D, 0x31, 0x32, 0x78])
      0x00000028000000000000000000000000
      (fun t => t.inPos = 8 ∧ t.fr.kind = some .ioParseError ∧ t.fr.pc = 0 ∧ t.pc = 0) ∧
    gives (withInput base [0x2D, 0x31, 0x65, 0x32, 0x20])
      0x00000028000000010000000300000000
      (fun t => t.inPos = 4 ∧ t.readF 3 = 0xC2C80000 ∧ t.pc = 1) ∧
    gives (withInput base [0x74, 0x72, 0x75, 0x65, 0x0A])
      0x00000028000000020000000400000000
      (fun t => t.inPos = 4 ∧ t.readX 4 = 1 ∧ t.pc = 1) ∧
    gives (withInput base [0x68, 0x65, 0x6C, 0x6C, 0x6F, 0x20, 0x77, 0x6F, 0x72, 0x6C, 0x64, 0x0A])
      0x00000028000000030000000200000000
      (fun t => t.inPos = 5 ∧ t.strTable[2]? = some [0x68, 0x65, 0x6C, 0x6C, 0x6F] ∧ t.pc = 1) := by
  refine ⟨?_, ?_, ?_, ?_⟩ <;> decide

/-- Vectors T182, T187, T188, T193: services 4, 6, 7 and a code that is none. -/
theorem test_call_writes :
    gives (base.writeX 2 0xFFFFFFF4)
      0x00000028000000040000000200000000
      (fun t => t.out = [0x2D, 0x31, 0x32, 0x0A] ∧ t.pc = 1) ∧
    gives (base.writeX 2 2)
      0x00000028000000060000000200000000
      (fun t => t.fr.kind = some .invalidBooleanValue ∧ t.fr.pc = 0 ∧ t.pc = 0) ∧
    gives (base.writeSlot 1 [0x68, 0x69, 0x20, 0x74, 0x68, 0x65, 0x72, 0x65])
      0x00000028000000070000000100000000
      (fun t => t.out = [0x68, 0x69, 0x20, 0x74, 0x68, 0x65, 0x72, 0x65, 0x0A] ∧ t.pc = 1) ∧
    gives base
      0x00000028000000090000006300000000
      (fun t => t.fr.kind = some .invalidSyscall ∧ t.fr.pc = 0 ∧ t.pc = 0) := by
  refine ⟨?_, ?_, ?_, ?_⟩ <;> decide

/-! ### Witnesses: the hypotheses of each obligation can be met, at the ends of each range -/

/-- A running machine with every kind of contents: a word at both ends of the instruction memory,
cells at both ends of the data memory, registers of both banks, texts and input. -/
def full : State :=
  { (((((base.writeX 0 1).writeX 31 7).writeF 31 0x3F800000).writeData 0 9).writeData 1023 8).writeInstr 0
      0x00000002000000020000000000000001 with
    strTable := [[0x61], [], [0x61, 0x62], [], [], [], [], [0x62]]
    pool := [[0x78], List.replicate 128 0x41, List.replicate 129 0x41]
    inBytes := [0x20, 0x35, 0x0A] }

/-- The same machine with the string table of reset, so that it has `STR_CAPACITY` slots. -/
def fullTable : State := { full with strTable := State.reset.strTable }

theorem fullTable_inv : fullTable.Inv :=
  ⟨by decide, by decide, List.length_replicate, fun t ht => by simp [List.eq_of_mem_replicate ht],
    by decide, fun _ => rfl, fun h => by cases h⟩

/-- A register index at each end of its range and the two indices next to it. -/
theorem witness_register_index :
    Is 0 (0 : Fin 32) ∧ Is 31 (31 : Fin 32) ∧ BadIndex 32 32 ∧ BadIndex 32 (-1) ∧
      BadIndex 32 0x80000000 ∧ ¬ BadIndex 32 31 :=
  ⟨rfl, rfl, Or.inr (by decide), Or.inl (by decide), Or.inl (by decide), fun h => by
    rcases h with h | h <;> revert h <;> decide⟩

/-- The same for a data address. -/
theorem witness_data_address :
    Is 0 (0 : Fin 1024) ∧ Is 1023 (1023 : Fin 1024) ∧ BadIndex 1024 1024 ∧ BadIndex 1024 (-1) :=
  ⟨rfl, rfl, Or.inr (by decide), Or.inl (by decide)⟩

/-- The same for a slot of the eight. -/
theorem witness_slot :
    Is 0 (⟨0, by decide⟩ : Fin full.strTable.length) ∧
      Is 7 (⟨7, by decide⟩ : Fin full.strTable.length) ∧
      BadIndex full.strTable.length 8 ∧ BadIndex full.strTable.length (-1) :=
  ⟨rfl, rfl, Or.inr (by decide), Or.inl (by decide)⟩

theorem witness_StepKeepsInv :
    fullTable.Inv ∧ (∃ t, step fullTable = .next t) ∧ fullTable.readX 0 = 1 :=
  ⟨fullTable_inv, ⟨_, rfl⟩, by decide⟩

theorem witness_ReachableStatesSatisfyInv :
    fullTable.Inv ∧ (∃ t, hostAct .reset fullTable = .next t) ∧ (∃ t, hostAct .start fullTable = .next t) ∧
      (∃ t, hostAct .endInput fullTable = .next t) ∧
      (∃ t, hostAct (.writeData 1023 5) State.reset = .next t) ∧
      (∃ t, hostAct (.writeInstr 0 5) State.reset = .next t) ∧
      (∃ t, hostAct (.setPool [[0x61]]) State.reset = .next t) ∧
      (∃ t, hostAct (.appendInput [0x61]) State.reset = .next t) ∧
      Reachable { State.reset with run := .running } :=
  ⟨fullTable_inv, ⟨_, rfl⟩, ⟨_, rfl⟩, ⟨_, rfl⟩, ⟨_, rfl⟩, ⟨_, rfl⟩, ⟨_, rfl⟩, ⟨_, rfl⟩,
    .host .start .reset rfl⟩

/-- At address 0, and at the last address, whose word is the reset word `HALT`. -/
theorem witness_StepRunsTheDecodedInstruction :
    (full.run = .running ∧ Is full.pc (0 : Fin 1024) ∧
      decode (full.readInstr 0) = .ok (.addi 2 0 1)) ∧
    ((full.setPc 1023).run = .running ∧ Is (full.setPc 1023).pc (1023 : Fin 1024) ∧
      decode ((full.setPc 1023).readInstr 1023) = .ok (.halt 0 0 0)) :=
  ⟨⟨rfl, rfl, rfl⟩, rfl, rfl, rfl⟩

theorem witness_FetchOutsideMemoryFaults :
    ((base.setPc 1024).run = .running ∧ BadIndex 1024 (base.setPc 1024).pc) ∧
      (base.setPc (-1)).run = .running ∧ BadIndex 1024 (base.setPc (-1)).pc :=
  ⟨⟨rfl, Or.inr (by decide)⟩, rfl, Or.inl (by decide)⟩

theorem witness_StepChangesNothingUnlessRunning :
    State.reset.run ≠ .running ∧ base.halt.run ≠ .running ∧
      (base.takeFault .ioParseError none).run ≠ .running := by
  decide

theorem witness_IllegalOpcodesAreRejectedAndFault :
    let s := base.writeInstr 0 0x00000029000000630000000500000007
    s.run = .running ∧ Is s.pc (0 : Fin 1024) ∧
      41 ≤ ((s.readInstr 0).extractLsb' 96 32).toNat :=
  ⟨rfl, rfl, by decide⟩

theorem witness_EncodeOfDecodeIsTheWord :
    decode 0x00000028000000040000000200000001#128 = .ok (.call 4 2 1) := rfl

/-- The clauses on operands 0, 31 and 32, 31, 31 and 0, 31, -1. -/
theorem witness_AddSubMulWrapAndFrame :
    (Is 0 (0 : Fin 32) ∧ Is 31 (31 : Fin 32)) ∧
      (BadIndex 32 32 ∨ BadIndex 32 31 ∨ BadIndex 32 31) ∧
      (BadIndex 32 0 ∨ BadIndex 32 31 ∨ BadIndex 32 (-1)) :=
  ⟨⟨rfl, rfl⟩, Or.inl (Or.inr (by decide)), Or.inr (Or.inr (Or.inl (by decide)))⟩

/-- A non-zero and a zero divisor. -/
theorem witness_DivModTruncateOrFault :
    (Is 0 (0 : Fin 32) ∧ Is 31 (31 : Fin 32) ∧ full.readX 31 ≠ 0) ∧
      (Is 31 (31 : Fin 32) ∧ Is 1 (1 : Fin 32) ∧ full.readX 1 = 0) ∧
      (BadIndex 32 32 ∨ BadIndex 32 0 ∨ BadIndex 32 0) :=
  ⟨⟨rfl, rfl, by decide⟩, ⟨rfl, rfl, by decide⟩, Or.inl (Or.inr (by decide))⟩

/-- Operands with a number and with a NaN as result. -/
theorem witness_FloatArithmeticWritesItsPrimitive :
    Is 0 (0 : Fin 32) ∧ Is 31 (31 : Fin 32) ∧
      fadd32 (full.readF 31) (full.readF 0) = .num 0x3F800000 ∧
      fdiv32 (full.readF 0) (full.readF 0) = .nan ∧
      (BadIndex 32 0 ∨ BadIndex 32 0 ∨ BadIndex 32 32) :=
  ⟨rfl, rfl, by decide, by decide, Or.inr (Or.inr (Or.inr (by decide)))⟩

theorem witness_IntRelationsWriteTheirTruth :
    Is 0 (0 : Fin 32) ∧ Is 31 (31 : Fin 32) ∧
      (full.readX 0).toInt < (full.readX 31).toInt ∧ full.readX 1 = full.readX 2 ∧
      (BadIndex 32 0 ∨ BadIndex 32 32 ∨ BadIndex 32 0) :=
  ⟨rfl, rfl, by decide, by decide, Or.inr (Or.inl (Or.inr (by decide)))⟩

theorem witness_FloatRelationsWriteTheirTruth :
    Is 0 (0 : Fin 32) ∧ Is 31 (31 : Fin 32) ∧
      flt32 (full.readF 0) (full.readF 31) = true ∧ feq32 (full.readF 0) (full.readF 1) = true ∧
      (BadIndex 32 (-1) ∨ BadIndex 32 0 ∨ BadIndex 32 0) :=
  ⟨rfl, rfl, by decide, by decide, Or.inl (Or.inl (by decide))⟩

/-- A good comparison, a bad register before a bad slot, and a bad slot behind a good register. -/
theorem witness_StringRelationsWriteTheirTruth :
    (Is 31 (31 : Fin 32) ∧ Is 0 (⟨0, by decide⟩ : Fin full.strTable.length) ∧
      Is 7 (⟨7, by decide⟩ : Fin full.strTable.length) ∧
      cmpText full.strTable[0] full.strTable[7] = -1) ∧
      BadIndex 32 40 ∧ ¬ BadIndex 32 31 ∧
      (BadIndex full.strTable.length 0 ∨ BadIndex full.strTable.length 8) :=
  ⟨⟨rfl, rfl, rfl, by decide⟩, Or.inr (by decide), witness_register_index.2.2.2.2.2,
    Or.inr (Or.inr (by decide))⟩

theorem witness_JumpGoesAndTheNextFetchChecks :
    base.run = .running ∧ BadIndex 1024 1024 ∧ BadIndex 1024 (-1) :=
  ⟨rfl, Or.inr (by decide), Or.inl (by decide)⟩

/-- A register that holds 1, one that holds 0, one that holds 7, and an index of no register. -/
theorem witness_BranchesReadABooleanExactly :
    (Is 0 (0 : Fin 32) ∧ full.readX 0 = 1) ∧ (Is 1 (1 : Fin 32) ∧ full.readX 1 = 0) ∧
      (Is 31 (31 : Fin 32) ∧ full.readX 31 ≠ 0 ∧ full.readX 31 ≠ 1) ∧ BadIndex 32 32 :=
  ⟨⟨rfl, by decide⟩, ⟨rfl, by decide⟩, ⟨rfl, by decide, by decide⟩, Or.inr (by decide)⟩

theorem witness_LoadsTakeTheCellUnchanged :
    (Is 31 (31 : Fin 32) ∧ Is 1023 (1023 : Fin 1024) ∧ full.readData 1023 = 8) ∧
      BadIndex 32 40 ∧ ¬ BadIndex 32 31 ∧ BadIndex 1024 1024 :=
  ⟨⟨rfl, rfl, by decide⟩, Or.inr (by decide), witness_register_index.2.2.2.2.2, Or.inr (by decide)⟩

theorem witness_ConstantsTakeTheFieldUnchanged : Is 31 (31 : Fin 32) ∧ BadIndex 32 32 :=
  ⟨rfl, Or.inr (by decide)⟩

theorem witness_StoresReplaceOneCell :
    Memory.wf 1024 full.dataMem = true ∧ (Is 31 (31 : Fin 32) ∧ Is 1023 (1023 : Fin 1024)) ∧
      BadIndex 32 (-1) ∧ ¬ BadIndex 32 31 ∧ BadIndex 1024 1024 :=
  ⟨by decide, ⟨rfl, rfl⟩, Or.inl (by decide), witness_register_index.2.2.2.2.2,
    Or.inr (by decide)⟩

/-- A pool entry of 1 character, of 128 and of 129, and an index of no entry. -/
theorem witness_SstrCopiesThePoolEntry :
    (Is 0 (⟨0, by decide⟩ : Fin full.pool.length) ∧ 0 < full.strTable.length ∧
      full.pool[0].length ≤ 128) ∧
    (Is 1 (⟨1, by decide⟩ : Fin full.pool.length) ∧ full.pool[1].length = 128) ∧
    (BadIndex full.pool.length 3 ∨ BadIndex full.strTable.length 3) ∧
    (Is 2 (⟨2, by decide⟩ : Fin full.pool.length) ∧ 2 < full.strTable.length ∧
      128 < full.pool[2].length) :=
  ⟨⟨rfl, by decide, by decide⟩, ⟨rfl, List.length_replicate⟩, Or.inl (Or.inr (by decide)),
    rfl, by decide, by rw [show full.pool[2].length = 129 from List.length_replicate]; decide⟩

/-- Codes on both sides of both ends; and a call with a good code that faults otherwise. -/
theorem witness_OnlyEightServiceCodes :
    full.run ≠ .faulted ∧ BadIndex 8 8 ∧ BadIndex 8 (-1) ∧ ¬ BadIndex 8 7 ∧
      ∃ t, exec (.call 7 8 0) full = .next t ∧ t.run = .faulted :=
  ⟨by decide, Or.inr (by decide), Or.inl (by decide),
    fun h => by rcases h with h | h <;> revert h <;> decide, _, rfl, rfl⟩

/-- The token ` 5` followed by a newline, of which two bytes are consumed. -/
theorem full_token : TokenIs full [0x35] 2 :=
  ⟨[0x20], [0x0A], rfl, by unfold Space; decide, by decide, by unfold Space; decide,
    fun c hc => by (cases hc; unfold Space; decide), fun h => by (cases h), rfl⟩

/-- A token ended by the end of the stream. -/
theorem last_token (w : Text) (h : w ≠ []) (hs : ∀ c ∈ w, ¬ Space c) :
    TokenIs (withInput base w) w w.length :=
  ⟨[], [], by simp [withInput, base, State.reset], by simp, h, hs, by simp, fun _ => rfl, by simp⟩

theorem empty_input : NoToken (withInput base [0x20]) 1 :=
  ⟨rfl, by unfold Space; decide, rfl⟩

theorem waiting_input : MustWait { withInput base [0x20, 0x35] with inEnded := false } :=
  ⟨rfl, [0x20], [0x35], rfl, by unfold Space; decide, by unfold Space; decide⟩

theorem witness_ReadIntService :
    Is 31 (31 : Fin 32) ∧ (TokenIs full [0x35] 2 ∧ parseInt [0x35] = some 5) ∧
      (TokenIs (withInput base [0x78]) [0x78] 1 ∧ parseInt [0x78] = none) ∧
      NoToken (withInput base [0x20]) 1 ∧ BadIndex 32 32 :=
  ⟨rfl, ⟨full_token, by decide⟩, ⟨last_token _ (by decide) (by unfold Space; decide), by decide⟩,
    empty_input, Or.inr (by decide)⟩

theorem witness_ReadFloatService :
    Is 31 (31 : Fin 32) ∧ (TokenIs full [0x35] 2 ∧ parseFloat [0x35] = some 0x40A00000) ∧
      (TokenIs (withInput base [0x78]) [0x78] 1 ∧ parseFloat [0x78] = none) ∧
      NoToken (withInput base [0x20]) 1 ∧ BadIndex 32 32 :=
  ⟨rfl, ⟨full_token, by decide⟩, ⟨last_token _ (by decide) (by unfold Space; decide), by decide⟩,
    empty_input, Or.inr (by decide)⟩

/-- The tokens `1` and `5`. -/
theorem witness_ReadBoolService :
    Is 31 (31 : Fin 32) ∧ TokenIs (withInput base [0x31]) [0x31] 1 ∧
      (TokenIs full [0x35] 2 ∧ parseBool [0x35] = none) ∧ NoToken (withInput base [0x20]) 1 ∧
      BadIndex 32 32 :=
  ⟨rfl, last_token _ (by decide) (by unfold Space; decide), ⟨full_token, by decide⟩, empty_input,
    Or.inr (by decide)⟩

/-- Tokens of 128 and of 129 bytes. -/
theorem witness_ReadStringService :
    Is 7 (⟨7, by decide⟩ : Fin base.strTable.length) ∧
      TokenIs (withInput base (List.replicate 128 0x41)) (List.replicate 128 0x41) 128 ∧
      TokenIs (withInput base (List.replicate 129 0x41)) (List.replicate 129 0x41) 129 ∧
      NoToken (withInput base [0x20]) 1 ∧ BadIndex base.strTable.length 8 := by
  have hA : ∀ n, ∀ c ∈ List.replicate n (0x41 : Byte), ¬ Space c := fun n c hc => by
    rw [List.eq_of_mem_replicate hc]
    unfold Space
    decide
  refine ⟨rfl, ?_, ?_, empty_input, Or.inr (by decide)⟩
  · simpa using last_token (List.replicate 128 0x41) (by simp) (hA 128)
  · simpa using last_token (List.replicate 129 0x41) (by simp) (hA 129)

/-- A machine at `CALL 3, 7` with half a token supplied. -/
def waitingRead : State :=
  { (withInput base [0x20, 0x35]).writeInstr 0 0x00000028000000030000000700000000 with
    inEnded := false }

theorem waitingRead_waiting : waitingRead.Waiting :=
  ⟨rfl, _, _, rfl, rfl, 3, 7, 0, .readString, rfl, rfl, rfl, by decide⟩

/-- R128, R334: a jump to itself changes nothing either, and is no waiting. -/
theorem test_loop_is_no_waiting :
    (let s := base.writeInstr 0 0x0000001E000000000000000000000000
     step s = .next s ∧ ¬ s.Waiting) := by
  refine ⟨rfl, ?_⟩
  rintro ⟨-, w, i, hf, hd, code, x, u3, v, rfl, -⟩
  cases hf
  cases hd

theorem witness_ReadsWaitWithoutEffect :
    MustWait { withInput base [0x20, 0x35] with inEnded := false } ∧ (∃ r : Fin 32, Is 31 r) ∧
      (∃ k : Fin base.strTable.length, Is 7 k) ∧ waitingRead.Waiting ∧
      (base.run = .running ∧
        LoopsToItself (base.writeInstr 0 0x0000001E000000000000000000000000) 0) :=
  ⟨waiting_input, ⟨31, rfl⟩, ⟨⟨7, by decide⟩, rfl⟩, waitingRead_waiting, rfl,
    .inl ⟨0, 0, rfl⟩⟩

theorem witness_WriteIntService : Is 31 (31 : Fin 32) ∧ BadIndex 32 32 := ⟨rfl, Or.inr (by decide)⟩

theorem witness_WriteFloatService : Is 0 (0 : Fin 32) ∧ BadIndex 32 (-1) := ⟨rfl, Or.inl (by decide)⟩

theorem witness_WriteBoolService :
    (Is 0 (0 : Fin 32) ∧ full.readX 0 = 1) ∧ (Is 1 (1 : Fin 32) ∧ full.readX 1 = 0) ∧
      (Is 31 (31 : Fin 32) ∧ full.readX 31 ≠ 1 ∧ full.readX 31 ≠ 0) ∧ BadIndex 32 32 :=
  ⟨⟨rfl, by decide⟩, ⟨rfl, by decide⟩, ⟨rfl, by decide, by decide⟩, Or.inr (by decide)⟩

theorem witness_WriteStringService :
    Is 7 (⟨7, by decide⟩ : Fin full.strTable.length) ∧ BadIndex full.strTable.length 8 :=
  ⟨rfl, Or.inr (by decide)⟩

theorem witness_LaterInputChangesNoToken :
    scanToken false [0x20, 0x35, 0x0A] = .token [0x35] 2 := by
  decide

/-- `-12` is a literal, `-x` is none. -/
theorem witness_IntegerLiteralsExactly :
    parseInt [0x2D, 0x31, 0x32] = some (-12) ∧ parseInt [0x2D, 0x78] = none := by
  decide

/-- `-1e2` is a literal, `nan` is none. -/
theorem witness_FloatLiteralsAreCorrectlyRounded :
    FloatLiteral [0x2D, 0x31, 0x65, 0x32] true 1 2 ∧
      ¬ ∃ neg m e, FloatLiteral [0x6E, 0x61, 0x6E] neg m e := by
  constructor
  · refine ⟨[0x2D], [0x31], [], [], [0x65, 0x32], 2, Or.inr (Or.inr ⟨rfl, rfl⟩), ?_, by simp,
      Or.inl (by simp), Or.inl ⟨rfl, rfl⟩, Or.inr ⟨0x65, [], [0x32], false, Or.inl rfl,
        Or.inl ⟨rfl, rfl⟩, by simp, ?_, rfl, rfl⟩, rfl, rfl, rfl⟩ <;> (unfold Digit; decide)
  · rintro ⟨neg, m, e, sgn, ip, fp, point, ex, k, hs, hi, hf, hne, hp, -, ht, -, -⟩
    have hd : ∀ (c : Byte) (w : Text), [0x6E, 0x61, 0x6E] = c :: w → ¬ Digit c ∧ c ≠ 0x2E := by
      intro c w h
      cases h
      unfold Digit
      decide
    rcases hs with ⟨rfl, -⟩ | ⟨rfl, -⟩ | ⟨rfl, -⟩
    · cases ip with
      | cons c w => exact (hd c _ ht).1 (hi c (by simp))
      | nil =>
        rcases hp with ⟨rfl, rfl⟩ | rfl
        · simp at hne
        · exact (hd _ _ ht).2 rfl
    · cases ht
    · cases ht

/-- A difference inside both texts, a proper prefix on either side, and equal texts. -/
theorem witness_TextOrderIsLexicographic :
    (([0x61, 0x62] : Text).take 1 = ([0x61, 0x63] : Text).take 1 ∧
      ([0x61, 0x62] : Text)[1] ≠ ([0x61, 0x63] : Text)[1]) ∧
    (([0x61] : Text) <+: [0x61, 0x62] ∧ ([0x61] : Text).length < ([0x61, 0x62] : Text).length) ∧
    cmpText [0x61] [0x61] = 0 := by
  decide

/-- Every clause: a NaN, both infinities, and finite patterns that are and are not zero. -/
theorem witness_FloatSpecialCases :
    isNaN 0x7FC00000 = true ∧ (true ≠ false) ∧ FiniteBits 0x7F7FFFFF ∧ FiniteBits 0 ∧
      isZero 0x7F7FFFFF = false ∧ isNaN (infinity true) = false ∧ isZero (infinity true) = false ∧
      ¬ (isZero 0x3F800000 = true ∧ isInf (infinity true) = true) ∧
      isNaN 0x00000001 = false ∧ isZero 0x00000001 = false ∧
      fdiv32 0x80000001 0x7F7FFFFF = .num 0x80000000 := by
  unfold FiniteBits
  decide

theorem witness_FloatArithmeticIsCorrectlyRounded :
    FiniteBits 0x7F7FFFFF ∧ FiniteBits 0x00000001 ∧ realOf 0x00000001 ≠ 0 := by
  refine ⟨by unfold FiniteBits; decide, by unfold FiniteBits; decide, ?_⟩
  simp [realOf]

theorem witness_FloatRemainderIsExact :
    FiniteBits 0x7F7FFFFF ∧ FiniteBits 0x00000001 ∧ realOf 0x00000001 ≠ 0 :=
  witness_FloatArithmeticIsCorrectlyRounded

theorem witness_FloatComparisonIsByValue :
    isNaN 0x7FC00000 = true ∧ isNaN (infinity false) = false ∧ isNaN 0x80000000 = false := by
  decide

theorem witness_StoreThenLoadMovesTheSameBits :
    Memory.wf 1024 full.dataMem = true ∧ Is 1023 (1023 : Fin 1024) ∧ Is 31 (31 : Fin 32) ∧
      Is 0 (0 : Fin 32) :=
  ⟨by decide, rfl, rfl, rfl⟩

/-- A fault of the fetch, one of an instruction, and one behind consumed input. -/
theorem witness_FaultsArePrecise :
    (∃ t, step (base.setPc 1024) = .next t ∧ t.run = .faulted) ∧
    (∃ t, step (base.writeInstr 0 0x00000002000000200000000000000001) = .next t ∧
      t.run = .faulted) ∧
    ∃ t, step ((withInput base [0x78]).writeInstr 0 0x00000028000000000000000000000000) = .next t ∧
      t.run = .faulted ∧ t.inPos = 1 :=
  ⟨⟨_, rfl, rfl⟩, ⟨_, rfl, rfl⟩, _, rfl, rfl, rfl⟩

theorem witness_RunStateTransitions :
    (∃ t, step base = .next t ∧ t.run = .halted) ∧
      (∃ t, hostAct .start State.reset = .next t ∧ t.run = .running) ∧
      State.reset.run = .loaded ∧ base.halt.Ended ∧
      (base.takeFault .ioParseError none).Ended :=
  ⟨⟨_, rfl, rfl⟩, ⟨_, rfl, rfl⟩, rfl, .inl rfl, .inr rfl⟩

theorem witness_InstructionsAndPoolNeverChange :
    ∃ t, Host.Core.run Sys2Proof.core 2 full = .next t :=
  ⟨_, rfl⟩

theorem witness_OnlyListedInstructionsWriteRegisters :
    (∃ t, exec (.call 4 31 0) full = .next t) ∧ ¬ WritesX (.call 4 31 0) ∧
      ¬ WritesF (.call 4 31 0) :=
  ⟨⟨_, rfl⟩, by simp [WritesX], by simp [WritesF]⟩

theorem witness_StreamsMoveOnlyByCall :
    (∃ t, exec (.call 0 0 0) full = .next t ∧ t.inPos ≠ full.inPos) ∧
      ∃ t, exec (.call 4 0 0) full = .next t ∧ t.out ≠ full.out :=
  ⟨⟨_, rfl, by decide⟩, _, rfl, by decide⟩

theorem witness_RelationsLeaveABoolean :
    relationDest (.equs 31 0 7) = some 31 ∧ Is 31 (31 : Fin 32) ∧ full.run = .running ∧
      ∃ t, exec (.equs 31 0 7) full = .next t ∧ t.run = .running ∧
        t.readX 31 = 0 :=
  ⟨rfl, rfl, rfl, _, rfl, rfl, rfl⟩

/-- Branches from both ends of the memory: to the other end, and one step beyond it. -/
theorem witness_WrappedBranchTargetKeepsTheVerdict :
    ¬ BadIndex 1024 0 ∧ ¬ BadIndex 1024 1023 ∧ ¬ BadIndex 1024 (branchTarget 0 1023) ∧
      BadIndex 1024 (branchTarget 1023 1) ∧ BadIndex 1024 (branchTarget 0 (-1)) ∧
      BadIndex 1024 (branchTarget 1023 0x7FFFFFFF) :=
  ⟨fun h => by rcases h with h | h <;> revert h <;> decide,
    fun h => by rcases h with h | h <;> revert h <;> decide,
    fun h => by rcases h with h | h <;> revert h <;> decide,
    Or.inr (by decide), Or.inl (by decide), Or.inl (by decide)⟩

theorem witness_StartAndStatus :
    State.reset.run = .loaded ∧ base.run ≠ .loaded ∧ base.halt.run = .halted ∧
      (base.takeFault .ioParseError none).run = .faulted ∧ base.run = .running ∧
      base.fr.kind = none ∧ ∀ k, (base.takeFault k none).fr.kind = some k :=
  ⟨rfl, by decide, rfl, rfl, rfl, rfl, fun _ => rfl⟩

/-- Both ends of either memory and of the table, a text of the greatest length, and a state outside
Loaded. -/
theorem witness_LoaderAndInputActionsWriteWhatTheyName :
    let s : State := { full with run := .loaded }
    s.run = .loaded ∧ Memory.wf 1024 s.instrMem = true ∧ Memory.wf 1024 s.dataMem = true ∧
      7 < s.strTable.length ∧ (List.replicate 128 0x41 : Text).length ≤ 128 ∧
      (∃ t, hostAct (.writeInstr 1023 5) s = .next t) ∧
      (∃ t, hostAct (.writeData 0 0) s = .next t) ∧
      (∃ t, hostAct (.writeSlot 7 [0x62]) s = .next t) ∧
      full.run ≠ .loaded ∧ State.reset.inEnded = false :=
  ⟨rfl, by decide, by decide, by decide, by simp, ⟨_, rfl⟩, ⟨_, rfl⟩, ⟨_, rfl⟩, by decide, rfl⟩

/-- An instruction that faults on its register, and one that does not. -/
theorem witness_OperandOutOfRangeExactly :
    full.run ≠ .faulted ∧ (∃ t, exec (.stwi 5000 40 0) full = .next t) ∧
      (∃ o ∈ regFields (.stwi 5000 40 0), BadIndex 32 o) ∧
      (∃ t, exec (.call 9 99 0) full = .next t) ∧ BadCode (.call 9 99 0) :=
  ⟨by decide, ⟨_, rfl⟩, ⟨40, by simp [regFields], Or.inr (by decide)⟩, ⟨_, rfl⟩,
    Or.inr (by decide)⟩

/-- A well-formed division by zero, in a state whose table has its capacity. -/
theorem witness_WellFormedInstructionsTakeNoRangeFault :
    (Instr.divi 31 0 1).WellFormed = true ∧
      State.reset.strTable.length = Config.strCapacity ∧ State.reset.run ≠ .faulted ∧
      ∃ t, exec (.divi 31 0 1) State.reset = .next t ∧ t.run = .faulted :=
  ⟨by decide, by simp [State.reset], by decide, _, rfl, rfl⟩

theorem witness_SelfLoopsHang :
    (let s := (base.setPc 1023).writeInstr 1023 0x0000001E000003FF0000000000000000;
      s.run = .running ∧ Is s.pc (1023 : Fin 1024) ∧ LoopsToItself s 1023) ∧
    LoopsToItself ((base.writeX 2 1).writeInstr 0 0x0000001F000000020000000000000000) 0 ∧
    LoopsToItself (base.writeInstr 0 0x00000020000000020000000000000000) 0 :=
  ⟨⟨rfl, rfl, .inl ⟨0, 0, rfl⟩⟩, .inr (.inl ⟨2, 0, 2, rfl, by decide, rfl⟩),
    .inr (.inr ⟨2, 0, 2, rfl, by decide, rfl⟩)⟩

end Sys2Proof.Tests
end

/-! The state: what each action, instruction and step may change, and what all of them keep
(`spec/10_state.md`). -/

namespace Sys2Proof.Machine

/-! ### `writeFloat` -/

section WriteFloat
variable (s : State) (d : Fin 32) (r : FloatResult)

@[simp] theorem State.writeFloat_instrMem : (s.writeFloat d r).instrMem = s.instrMem := by
  cases r <;> rfl
@[simp] theorem State.writeFloat_dataMem : (s.writeFloat d r).dataMem = s.dataMem := by
  cases r <;> rfl
@[simp] theorem State.writeFloat_strTable : (s.writeFloat d r).strTable = s.strTable := by
  cases r <;> rfl
@[simp] theorem State.writeFloat_pool : (s.writeFloat d r).pool = s.pool := by
  cases r <;> rfl
@[simp] theorem State.writeFloat_run : (s.writeFloat d r).run = s.run := by
  cases r <;> rfl
@[simp] theorem State.writeFloat_fr : (s.writeFloat d r).fr = s.fr := by
  cases r <;> rfl
@[simp] theorem State.writeFloat_inBytes : (s.writeFloat d r).inBytes = s.inBytes := by
  cases r <;> rfl
@[simp] theorem State.writeFloat_inPos : (s.writeFloat d r).inPos = s.inPos := by
  cases r <;> rfl
@[simp] theorem State.writeFloat_inEnded : (s.writeFloat d r).inEnded = s.inEnded := by
  cases r <;> rfl
@[simp] theorem State.writeFloat_out : (s.writeFloat d r).out = s.out := by
  cases r <;> rfl
@[simp] theorem State.readX_writeFloat (j : Fin 32) :
    (s.writeFloat d r).readX j = s.readX j := by
  cases r
  case num v => exact State.readX_writeF s d j v
  case nan => exact State.readX_writeF s d j _

end WriteFloat

/-! ### Fetch and the table of services -/

/-- A fetch that answers a word read it at an address of the instruction memory (R69). -/
theorem fetch_eq_some {s : State} {w : InstrWord} (h : fetch s = some w) :
    ∃ a : Fin Config.instrCapacity, s.pc.toInt = (a.val : Int) ∧ w = s.readInstr a := by
  unfold fetch at h
  split at h
  next a ha => exact ⟨a, index?_eq_some_iff.1 ha, (Option.some.inj h).symm⟩
  next => cases h

/-- The code of a service, R271. -/
def Service.number : Service → Word
  | .readInt => 0
  | .readFloat => 1
  | .readBool => 2
  | .readString => 3
  | .writeInt => 4
  | .writeFloat => 5
  | .writeBool => 6
  | .writeString => 7

/-- A code names the service whose number it is. -/
theorem eq_number_of_service? {code : Word} {v : Service} (h : service? code = some v) :
    code = v.number := by
  unfold service? at h
  split at h <;> cases h <;> exact BitVec.eq_of_toInt_eq ‹_›

/-! ### The invariant, one rule for each state update -/

section Inv
variable {s : State}

theorem State.Inv.advance (h : s.Inv) : s.advance.Inv := { h with }

theorem State.Inv.setPc (h : s.Inv) (p : Word) : (s.setPc p).Inv := { h with }

theorem State.Inv.writeX (h : s.Inv) (d : Fin 32) (v : Word) : (s.writeX d v).Inv := { h with }

theorem State.Inv.writeF (h : s.Inv) (d : Fin 32) (v : Word) : (s.writeF d v).Inv := { h with }

theorem State.Inv.writeFloat (h : s.Inv) (d : Fin 32) (r : FloatResult) :
    (s.writeFloat d r).Inv := by
  cases r
  case num v => exact h.writeF d v
  case nan => exact { h with }

theorem State.Inv.emit (h : s.Inv) (t : Text) : (s.emit t).Inv := { h with }

theorem State.Inv.writeData (h : s.Inv) {a : Nat} (ha : a < Config.dataCapacity) (v : Word) :
    (s.writeData a v).Inv :=
  { h with dataMem := Memory.wf_write v ha h.dataMem }

theorem State.Inv.writeInstr (h : s.Inv) {a : Nat} (ha : a < Config.instrCapacity)
    (w : InstrWord) : (s.writeInstr a w).Inv :=
  { h with instrMem := Memory.wf_write w ha h.instrMem }

theorem State.Inv.writeSlot (h : s.Inv) (k : Nat) {t : Text} (ht : t.length ≤ Config.maxTextLen) :
    (s.writeSlot k t).Inv :=
  { h with
    slots := List.length_set.trans h.slots
    texts := fun u hu => (List.mem_or_eq_of_mem_set hu).elim (h.texts u) fun e => e ▸ ht }

/-- Consuming bytes that are pending stays within the input (R44). -/
theorem State.Inv.consume (h : s.Inv) {n : Nat} (hn : n ≤ s.pending.length) :
    (s.consume n).Inv :=
  { h with
    input := by
      have hin := h.input
      rw [State.pending_length] at hn
      simp only [State.consume_inPos, State.consume_inBytes]
      omega }

theorem State.Inv.takeFault (h : s.Inv) (k : FaultKind) (q : Option Fields) :
    (s.takeFault k q).Inv :=
  { h with
    clear := fun hr => absurd rfl hr
    recorded := fun _ => Option.some_ne_none k }

theorem State.Inv.raise (h : s.Inv) (k : FaultKind) (i : Instr) : (s.raise k i).Inv :=
  h.takeFault k _

/-- From Faulted the rule would fail: the fault record is then not clear. -/
theorem State.Inv.halt (h : s.Inv) (hr : s.run ≠ .faulted) : s.halt.Inv :=
  { h with
    clear := fun _ => h.clear hr
    recorded := fun hf => by cases hf }

theorem State.Inv.start (h : s.Inv) (hr : s.run ≠ .faulted) :
    State.Inv { s with run := .running } :=
  { h with
    clear := fun _ => h.clear hr
    recorded := fun hf => by cases hf }

theorem State.Inv.appendInput (h : s.Inv) (bytes : List Byte) :
    State.Inv { s with inBytes := s.inBytes ++ bytes } :=
  { h with input := h.input.trans (by simp) }

end Inv

/-- The state after reset has the invariant, whatever has been drawn before. -/
theorem reset_inv (n : Nat) : State.Inv { State.reset with nanDraws := n } where
  instrMem := reset_memories_wf.1
  dataMem := reset_memories_wf.2
  slots := List.length_replicate
  texts t ht := by simp [List.eq_of_mem_replicate ht]
  input := Nat.le_refl 0
  clear _ := rfl
  recorded h := by cases h

/-- Every instruction of a run that has not faulted keeps the invariant. -/
theorem Effect.inv {i : Instr} {s t : State} (h : Effect i s t) (hr : s.run ≠ .faulted)
    (hs : s.Inv) : t.Inv := by
  cases h with
  | waits => exact hs
  | halts => exact hs.halt hr
  | advances => exact hs.advance
  | jumps p => exact hs.setPc p
  | setsX d v => exact (hs.writeX d v).advance
  | setsF d r => exact (hs.writeFloat d r).advance
  | setsCell a v => exact (hs.writeData a.isLt v).advance
  | setsSlot k u _ hu => exact (hs.writeSlot k hu).advance
  | emits u => exact (hs.emit u).advance
  | readsX n d v hn => exact ((hs.consume hn).writeX d v).advance
  | readsF n d v hn => exact ((hs.consume hn).writeF d v).advance
  | readsSlot n k u hn _ hu => exact ((hs.consume hn).writeSlot k hu).advance
  | faults k => exact hs.raise k i
  | faultsAfter n k hn => exact (hs.consume hn).raise k i

theorem step_inv {s t : State} (hs : s.Inv) (h : step s = .next t) : t.Inv := by
  rcases step_cases h with ⟨_, rfl⟩ | ⟨_, _, rfl⟩ | ⟨_, w, e, _, _, rfl⟩ | ⟨hr, w, i, _, _, hx⟩
  · exact hs
  · exact hs.takeFault _ _
  · exact hs.takeFault _ _
  · exact (exec_effect i hx).inv (by simp [hr]) hs

theorem HostEffect.inv {act : HostAction} {s t : State} (h : HostEffect s act t) (hs : s.Inv) :
    t.Inv := by
  cases h with
  | resets => exact reset_inv _
  | writesInstr a w _ ha => exact hs.writeInstr ha w
  | writesData a v _ ha => exact hs.writeData ha v
  | writesSlot k u _ _ hu => exact hs.writeSlot k hu
  | setsPool entries => exact { hs with }
  | starts hr => exact hs.start (by simp [hr])
  | ignoresStart => exact hs
  | appends bytes => exact hs.appendInput bytes
  | endsInput => exact { hs with }

theorem Reachable.inv {s : State} (h : Reachable s) : s.Inv := by
  induction h with
  | reset => exact reset_inv 0
  | step _ hstep ih => exact step_inv ih hstep
  | host act _ hact ih => exact (hostAct_effect hact).inv ih

end Sys2Proof.Machine

namespace Sys2Proof.Proofs

open Machine Claim

/-- Settles O3: each form of `Effect` is a composition of updates that keep the invariant. -/
theorem stepKeepsInv : Obligations.StepKeepsInv := fun _ _ => step_inv

/-- Settles O4, by induction on reachability. -/
theorem reachableStatesSatisfyInv : Obligations.ReachableStatesSatisfyInv :=
  ⟨fun _ _ _ hs h => (hostAct_effect h).inv hs, fun _ => Reachable.inv⟩

/-- Settles O2: the case of `reset_inv` in which nothing has been drawn. -/
theorem resetSatisfiesInv : Obligations.ResetSatisfiesInv := reset_inv 0

end Sys2Proof.Proofs

/-! Which instructions may touch which part of the state (`spec/10_state.md` R22, R24, R36, R44,
R45, `spec/40_engine_cycle.md` R120). -/

namespace Sys2Proof.Machine

open Claim

/-! ### The program of a run -/

/-- Neither the instruction memory nor the pool nor the number of slots differs. -/
structure SameProgram (s t : State) : Prop where
  instrMem : t.instrMem = s.instrMem
  pool : t.pool = s.pool
  slots : t.strTable.length = s.strTable.length

theorem SameProgram.refl (s : State) : SameProgram s s := ⟨rfl, rfl, rfl⟩

theorem SameProgram.trans {s t u : State} (h : SameProgram s t) (h' : SameProgram t u) :
    SameProgram s u :=
  ⟨h'.instrMem.trans h.instrMem, h'.pool.trans h.pool, h'.slots.trans h.slots⟩

theorem Effect.sameProgram {i : Instr} {s t : State} (h : Effect i s t) : SameProgram s t := by
  cases h with
  | setsF d r => exact ⟨by simp, by simp, by simp⟩
  | setsSlot k u => exact ⟨rfl, rfl, List.length_set⟩
  | readsSlot n k u => exact ⟨rfl, rfl, List.length_set⟩
  | waits | halts | advances | jumps | setsX | setsCell | emits | readsX | readsF | faults
  | faultsAfter => exact ⟨rfl, rfl, rfl⟩

theorem step_sameProgram {s t : State} (h : step s = .next t) : SameProgram s t := by
  rcases step_cases h with ⟨_, rfl⟩ | ⟨_, _, rfl⟩ | ⟨_, w, e, _, _, rfl⟩ | ⟨_, w, i, _, _, hx⟩
  · exact .refl _
  · exact ⟨rfl, rfl, rfl⟩
  · exact ⟨rfl, rfl, rfl⟩
  · exact (exec_effect i hx).sameProgram

theorem run_sameProgram {k : Nat} {s t : State}
    (h : Host.Core.run Sys2Proof.core k s = .next t) : SameProgram s t := by
  induction k generalizing s with
  | zero => cases next_inj h; exact .refl _
  | succ k ih =>
    obtain ⟨u, hstep, hrun⟩ := run_succ_next h
    exact (step_sameProgram hstep).trans (ih hrun)

/-! ### Footprints

`Effect` says what forms a next state can have and not which instructions have them. A footprint
says the second: some input is consumed, by a read service only, and then one update is made that
the class of the instruction allows. -/

/-- The updates the class of the instruction `i` allows. -/
inductive Update (i : Instr) (s : State) : State → Prop where
  /-- A read that waits. -/
  | nothing : Update i s s
  | halts (hi : ∃ u1 u2 u3, i = .halt u1 u2 u3) : Update i s s.halt
  /-- Only `pc` is written: the sequential advance and every transfer. -/
  | moves (p : Word) : Update i s (s.setPc p)
  | setsX (hi : WritesX i) (d : Fin 32) (v : Word) : Update i s (s.writeX d v).advance
  | setsF (hi : WritesF i) (d : Fin 32) (r : FloatResult) : Update i s (s.writeFloat d r).advance
  | setsCell (a : Nat) (v : Word) : Update i s (s.writeData a v).advance
  | setsSlot (k : Nat) (t : Text) : Update i s (s.writeSlot k t).advance
  | emits (hi : IsCallIn 4 7 i) (t : Text) : Update i s (s.emit t).advance
  | faults (k : FaultKind) : Update i s (s.raise k i)

/-- `i` leads from `s` to `t` by consuming input, if it is a read service, and one update. -/
def Footprint (i : Instr) (s t : State) : Prop :=
  ∃ n, (n ≠ 0 → IsCallIn 0 3 i) ∧ Update i (s.consume n) t

section Shapes
variable {i : Instr} {s t : State}

/-- An update is a footprint that consumes nothing. -/
theorem Footprint.of_update (h : Update i s t) : Footprint i s t :=
  ⟨0, fun h0 => absurd rfl h0, h⟩

theorem update_withReg {o : Word} {body : Fin 32 → State} (h : ∀ r, Update i s (body r)) :
    Update i s (withReg i o s body) := by
  rcases withReg_cases i o s body with ⟨r, _, e⟩ | ⟨_, e⟩ <;> rw [e]
  · exact h r
  · exact .faults _

theorem update_withRegs3 {o1 o2 o3 : Word} {body : Fin 32 → Fin 32 → Fin 32 → State}
    (h : ∀ d a b, Update i s (body d a b)) : Update i s (withRegs3 i o1 o2 o3 s body) := by
  rcases withRegs3_cases i o1 o2 o3 s body with ⟨d, a, b, _, _, _, e⟩ | ⟨_, e⟩ <;> rw [e]
  · exact h d a b
  · exact .faults _

theorem update_withRegCell {o addr : Word} {body : Fin 32 → Fin Config.dataCapacity → State}
    (h : ∀ r a, Update i s (body r a)) : Update i s (withRegCell i o addr s body) := by
  rcases withRegCell_cases i o addr s body with ⟨r, a, _, _, e⟩ | ⟨_, e⟩ | ⟨_, _, e⟩ <;> rw [e]
  · exact h r a
  · exact .faults _
  · exact .faults _

theorem update_withSlot {o : Word} {body : Text → State} (h : ∀ t, Update i s (body t)) :
    Update i s (withSlot i o s body) := by
  rcases withSlot_cases i o s body with ⟨t, _, e⟩ | ⟨_, e⟩ <;> rw [e]
  · exact h t
  · exact .faults _

theorem update_withRegSlots {o1 o2 o3 : Word} {body : Fin 32 → Text → Text → State}
    (h : ∀ d t u, Update i s (body d t u)) : Update i s (withRegSlots i o1 o2 o3 s body) := by
  rcases withRegSlots_cases i o1 o2 o3 s body with
    ⟨d, t, u, _, _, _, e⟩ | ⟨_, e⟩ | ⟨_, _, e⟩ <;> rw [e]
  · exact h d t u
  · exact .faults _
  · exact .faults _

theorem intArith_update (hi : WritesX i) (o1 o2 o3 : Word) (op : Word → Word → Word) :
    Update i s (intArith i o1 o2 o3 op s) :=
  update_withRegs3 fun d _ _ => .setsX hi d _

theorem intDivide_update (hi : WritesX i) (o1 o2 o3 : Word) (op : Word → Word → Word) :
    Update i s (intDivide i o1 o2 o3 op s) :=
  update_withRegs3 fun d _ _ => by
    split
    · exact .faults _
    · exact .setsX hi d _

theorem floatArith_update (hi : WritesF i) (o1 o2 o3 : Word) (op : Word → Word → FloatResult) :
    Update i s (floatArith i o1 o2 o3 op s) :=
  update_withRegs3 fun d _ _ => .setsF hi d _

theorem intRelation_update (hi : WritesX i) (o1 o2 o3 : Word) (rel : Int → Int → Bool) :
    Update i s (intRelation i o1 o2 o3 rel s) :=
  update_withRegs3 fun d _ _ => .setsX hi d _

theorem floatRelation_update (hi : WritesX i) (o1 o2 o3 : Word) (rel : Word → Word → Bool) :
    Update i s (floatRelation i o1 o2 o3 rel s) :=
  update_withRegs3 fun d _ _ => .setsX hi d _

theorem textRelation_update (hi : WritesX i) (o1 o2 o3 : Word) (rel : Int → Bool) :
    Update i s (textRelation i o1 o2 o3 rel s) :=
  update_withRegSlots fun d _ _ => .setsX hi d _

theorem branchOn_update (sense : Bool) (o off : Word) :
    Update i s (branchOn sense i o off s) :=
  update_withReg fun r => by
    split
    · exact .faults _
    · split
      · exact .moves _
      · exact .moves _

theorem sstr_update (k u2 u3 : Word) (h : execSstr k u2 u3 s = .next t) :
    Update (.sstr k u2 u3) s t := by
  cases next_inj h
  split
  · exact .faults _
  · refine update_withSlot fun _ => ?_
    split
    · exact .faults _
    · exact .setsSlot _ _

/-- A read service consumes what `next_token()` skipped and took, whether or not it then faults. -/
theorem readService_footprint {store : Text → State → Except FaultKind State}
    (hi : IsCallIn 0 3 i)
    (h : ∀ (w : Text) (u u' : State), store w u = .ok u' → Update i u u'.advance) :
    Footprint i s (readService i s store) := by
  unfold readService
  split
  next => exact .of_update .nothing
  next n _ => exact ⟨n, fun _ => hi, .faults _⟩
  next w n _ =>
    refine ⟨n, fun _ => hi, ?_⟩
    split
    next u hu => exact h w _ u hu
    next => exact .faults _

theorem footprint_withReg {o : Word} {body : Fin 32 → State}
    (h : ∀ r, Footprint i s (body r)) : Footprint i s (withReg i o s body) := by
  rcases withReg_cases i o s body with ⟨r, _, e⟩ | ⟨_, e⟩ <;> rw [e]
  · exact h r
  · exact .of_update (.faults _)

theorem footprint_withSlot {o : Word} {body : Text → State}
    (h : ∀ t, Footprint i s (body t)) : Footprint i s (withSlot i o s body) := by
  rcases withSlot_cases i o s body with ⟨t, _, e⟩ | ⟨_, e⟩ <;> rw [e]
  · exact h t
  · exact .of_update (.faults _)

theorem isCallIn_call {lo hi : Int} {code x u3 : Word}
    (h : lo ≤ code.toInt ∧ code.toInt ≤ hi) : IsCallIn lo hi (.call code x u3) := h

theorem writesX_call {code x u3 : Word} (h : code = 0 ∨ code = 2) :
    WritesX (.call code x u3) := h

theorem writesF_call {code x u3 : Word} (h : code = 1) : WritesF (.call code x u3) := h

theorem runService_footprint (v : Service) (x u3 : Word) :
    Footprint (.call v.number x u3) s (runService (.call v.number x u3) x s v) := by
  cases v with
  | readInt =>
    refine footprint_withReg fun r => readService_footprint (isCallIn_call (by decide))
      fun w u u' hu => ?_
    split at hu <;> cases hu
    exact .setsX (writesX_call (.inl rfl)) r _
  | readFloat =>
    refine footprint_withReg fun r => readService_footprint (isCallIn_call (by decide))
      fun w u u' hu => ?_
    split at hu <;> cases hu
    exact .setsF (writesF_call rfl) r (.num _)
  | readBool =>
    refine footprint_withReg fun r => readService_footprint (isCallIn_call (by decide))
      fun w u u' hu => ?_
    split at hu <;> cases hu
    exact .setsX (writesX_call (.inr rfl)) r _
  | readString =>
    refine footprint_withSlot fun _ => readService_footprint (isCallIn_call (by decide))
      fun w u u' hu => ?_
    split at hu <;> cases hu
    exact .setsSlot _ w
  | writeInt => exact .of_update (update_withReg fun r => .emits (isCallIn_call (by decide)) _)
  | writeFloat => exact .of_update (update_withReg fun r => .emits (isCallIn_call (by decide)) _)
  | writeBool =>
    refine .of_update (update_withReg fun r => ?_)
    split
    · exact .emits (isCallIn_call (by decide)) _
    · exact .faults _
  | writeString => exact .of_update (update_withSlot fun t => .emits (isCallIn_call (by decide)) _)

/-- What an instruction may touch, for every instruction. -/
theorem exec_footprint (i : Instr) {s t : State} (h : exec i s = .next t) : Footprint i s t := by
  cases i with
  | halt u1 u2 u3 => cases next_inj h; exact .of_update (.halts ⟨u1, u2, u3, rfl⟩)
  | noop u1 u2 u3 => cases next_inj h; exact .of_update (.moves _)
  | addi d a b | subi d a b | muli d a b =>
    cases next_inj h; exact .of_update (intArith_update (by trivial) ..)
  | divi d a b | modi d a b => cases next_inj h; exact .of_update (intDivide_update (by trivial) ..)
  | addf d a b | subf d a b | mulf d a b | divf d a b | modf d a b =>
    cases next_inj h; exact .of_update (floatArith_update (by trivial) ..)
  | equi d a b | neqi d a b | lthi d a b | ltei d a b | gthi d a b | gtei d a b =>
    cases next_inj h; exact .of_update (intRelation_update (by trivial) ..)
  | equf d a b | neqf d a b | lthf d a b | ltef d a b | gthf d a b | gtef d a b =>
    cases next_inj h; exact .of_update (floatRelation_update (by trivial) ..)
  | equs d j k | neqs d j k | lths d j k | ltes d j k | gths d j k | gtes d j k =>
    cases next_inj h; exact .of_update (textRelation_update (by trivial) ..)
  | jump addr u2 u3 => cases next_inj h; exact .of_update (.moves _)
  | botb r off u3 | bofb r off u3 => cases next_inj h; exact .of_update (branchOn_update ..)
  | ldwi d addr u3 =>
    cases next_inj h; exact .of_update (update_withRegCell fun r _ => .setsX (by trivial) r _)
  | ldwf d addr u3 =>
    cases next_inj h
    exact .of_update (update_withRegCell fun r _ => .setsF (by trivial) r (.num _))
  | ldii d c u3 =>
    cases next_inj h; exact .of_update (update_withReg fun r => .setsX (by trivial) r _)
  | ldif d c u3 =>
    cases next_inj h; exact .of_update (update_withReg fun r => .setsF (by trivial) r (.num _))
  | stwi addr r u3 | stwf addr r u3 =>
    cases next_inj h; exact .of_update (update_withRegCell fun _ a => .setsCell a _)
  | sstr k u2 u3 => exact .of_update (sstr_update k u2 u3 h)
  | call code x u3 =>
    cases next_inj h
    split
    next => exact .of_update (.faults _)
    next v hv =>
      rw [eq_number_of_service? hv]
      exact runService_footprint v x u3

end Shapes

/-! ### What footprints say of each part of the state -/

section Parts
variable {i : Instr} {s t : State}

theorem Update.readX (h : Update i s t) (hi : ¬ WritesX i) (r : Fin 32) :
    t.readX r = s.readX r := by
  cases h with
  | setsX hx => exact absurd hx hi
  | setsF _ d v => exact State.readX_writeFloat s d v r
  | nothing | halts | moves | setsCell | setsSlot | emits | faults => rfl

theorem Update.readF (h : Update i s t) (hi : ¬ WritesF i) (r : Fin 32) :
    t.readF r = s.readF r := by
  cases h with
  | setsX _ d v => exact State.readF_writeX s d r v
  | setsF hf => exact absurd hf hi
  | nothing | halts | moves | setsCell | setsSlot | emits | faults => rfl

/-- Only a write service appends to `OUT` (R45). -/
theorem Update.out (h : Update i s t) :
    ∃ added, t.out = s.out ++ added ∧ (added ≠ [] → IsCallIn 4 7 i) := by
  cases h with
  | emits hi w => exact ⟨w ++ [0x0A], List.append_assoc .., fun _ => hi⟩
  | setsF _ d r => exact ⟨[], by simp, fun h0 => absurd rfl h0⟩
  | nothing | halts | moves | setsX | setsCell | setsSlot | faults =>
    exact ⟨[], (List.append_nil _).symm, fun h0 => absurd rfl h0⟩

/-- No update touches the input stream: the read position moves by `State.consume` alone (R44). -/
theorem Update.input (h : Update i s t) :
    t.inBytes = s.inBytes ∧ t.inPos = s.inPos ∧ t.inEnded = s.inEnded := by
  cases h with
  | setsF => simp
  | nothing | halts | moves | setsX | setsCell | setsSlot | emits | faults => exact ⟨rfl, rfl, rfl⟩

/-- Only `HALT` and a fault write `RUN` (R120). -/
theorem Update.run (h : Update i s t) :
    t.run = s.run ∨ (t.run = .halted ∧ ∃ u1 u2 u3, i = .halt u1 u2 u3) ∨
      (t.run = .faulted ∧ t.fr.kind ≠ none) := by
  cases h with
  | halts hi => exact .inr (.inl ⟨rfl, hi⟩)
  | faults k => exact .inr (.inr ⟨rfl, Option.some_ne_none k⟩)
  | setsF => exact .inl (by simp)
  | nothing | moves | setsX | setsCell | setsSlot | emits => exact .inl rfl

end Parts

/-! ### The run state and reset -/

/-- R46: what a host's reset leaves, whatever has been drawn before. -/
theorem resetValues_of_draws (n : Nat) : ResetValues { State.reset with nanDraws := n } where
  x r := by simp [State.readX, State.reset]
  f r := by simp [State.readF, State.reset]
  pc := rfl
  instr _ := rfl
  data _ := rfl
  slotCount := by simp [State.reset, Config.strCapacity]
  slots _ ht := List.eq_of_mem_replicate ht
  pool := rfl
  run := rfl
  exit := rfl
  frKind := rfl
  frPc := rfl
  frValid := rfl
  frFields := rfl
  inPos := rfl
  out := rfl

theorem step_run {s t : State} (h : step s = .next t) :
    t.run = s.run ∨
      (s.run = .running ∧ t.run = .halted ∧ ∃ (a : Fin 1024) (u1 u2 u3 : Word), Is s.pc a ∧
        decode (s.readInstr a) = .ok (.halt u1 u2 u3)) ∨
      (s.run = .running ∧ t.run = .faulted ∧ t.fr.kind ≠ none) := by
  rcases step_cases h with
    ⟨_, rfl⟩ | ⟨hr, _, rfl⟩ | ⟨hr, w, e, _, _, rfl⟩ | ⟨hr, w, i, hf, hd, hx⟩
  · exact .inl rfl
  · exact .inr (.inr ⟨hr, rfl, Option.some_ne_none _⟩)
  · exact .inr (.inr ⟨hr, rfl, Option.some_ne_none _⟩)
  · obtain ⟨n, _, hu⟩ := exec_footprint i hx
    rcases hu.run with hsame | ⟨hh, u1, u2, u3, rfl⟩ | ⟨hfault, hk⟩
    · exact .inl hsame
    · obtain ⟨a, ha, rfl⟩ := fetch_eq_some hf
      exact .inr (.inl ⟨hr, hh, a, u1, u2, u3, ha, hd⟩)
    · exact .inr (.inr ⟨hr, hfault, hk⟩)

theorem HostEffect.run {act : HostAction} {s t : State} (h : HostEffect s act t) :
    t.run = s.run ∨ (act = .reset ∧ t.run = .loaded) ∨
      (act = .start ∧ s.run = .loaded ∧ t.run = .running) := by
  cases h with
  | resets => exact .inr (.inl ⟨rfl, rfl⟩)
  | starts hr => exact .inr (.inr ⟨rfl, hr, rfl⟩)
  | writesInstr | writesData | writesSlot | setsPool | ignoresStart | appends | endsInput =>
    exact .inl rfl

theorem State.Ended.run_ne {s : State} (h : s.Ended) : s.run ≠ .running ∧ s.run ≠ .loaded := by
  rcases h with h | h <;> simp [h]

theorem hostAct_start_of_loaded {s : State} (h : s.run = .loaded) :
    hostAct .start s = .next { s with run := .running } := by
  simp [hostAct, h]

theorem hostAct_start_of_not_loaded {s : State} (h : s.run ≠ .loaded) :
    hostAct .start s = .next s := by
  simp [hostAct, h]

/-! ### Read-out -/

theorem FaultRecord.kindCode_of_some {fr : FaultRecord} {k : FaultKind} (h : fr.kind = some k) :
    fr.kindCode = k.code := by
  simp [FaultRecord.kindCode, h]

theorem FaultRecord.kindCode_of_none {fr : FaultRecord} (h : fr.kind = none) :
    fr.kindCode = 0 := by
  simp [FaultRecord.kindCode, h]

end Sys2Proof.Machine

namespace Sys2Proof.Proofs

open Machine Claim

/-- Settles O50, from what a step and what a host action does to `RUN`. -/
theorem runStateTransitions : Obligations.RunStateTransitions := by
  refine ⟨fun _ _ => step_run, fun _ _ _ h => (hostAct_effect h).run,
    fun s => ⟨_, rfl, resetValues_of_draws _, rfl, rfl, rfl⟩, fun s hs => ?_,
    fun s hl => ⟨_, hostAct_start_of_loaded hl, rfl⟩⟩
  obtain ⟨hrunning, hloaded⟩ := hs.run_ne
  refine ⟨step_of_not_running hrunning, fun act t h => ?_⟩
  rcases (hostAct_effect h).run with hsame | ⟨hreset, _⟩ | ⟨_, hl, _⟩
  · exact .inl hsame
  · exact .inr hreset
  · exact absurd hl hloaded

/-- Settles O51, by induction on the number of steps. -/
theorem instructionsAndPoolNeverChange : Obligations.InstructionsAndPoolNeverChange := by
  intro k s t h
  obtain ⟨hinstr, hpool, hslots⟩ := run_sameProgram h
  exact ⟨fun a => congrArg (Memory.read a) hinstr, hpool, hslots⟩

/-- Settles O52, from the footprint of each instruction. -/
theorem onlyListedInstructionsWriteRegisters :
    Obligations.OnlyListedInstructionsWriteRegisters := by
  intro i s t h
  obtain ⟨n, _, hu⟩ := exec_footprint i h
  exact ⟨hu.readX, hu.readF⟩

/-- Settles O53, from the footprint of each instruction. -/
theorem streamsMoveOnlyByCall : Obligations.StreamsMoveOnlyByCall := by
  intro i s t h
  obtain ⟨n, hn, hu⟩ := exec_footprint i h
  obtain ⟨hbytes, hpos, hended⟩ := hu.input
  rw [State.consume_inPos] at hpos
  exact ⟨hu.out, by omega, fun hne => hn (by omega), hbytes, hended⟩

/-- Settles O57: a write within its bounds is accepted exactly in Loaded. -/
theorem loaderAndInputActionsWriteWhatTheyName :
    Obligations.LoaderAndInputActionsWriteWhatTheyName := by
  refine ⟨fun s hl => ⟨fun a w ha hm => ?_, fun a v ha hm => ?_, fun k u hk hu => ?_,
    fun entries => loaderWrite_of_loaded hl rfl⟩, fun s a w v u entries hl => ?_,
    fun s => ⟨fun bytes he => ?_, rfl⟩⟩
  · exact ⟨_, loaderWrite_of_loaded hl (decide_eq_true ha), rfl,
      State.readInstr_writeInstr_self w hm, fun b hb => State.readInstr_writeInstr_of_ne s w hb⟩
  · exact ⟨_, loaderWrite_of_loaded hl (decide_eq_true ha), rfl,
      State.readData_writeData_self v hm, fun b hb => State.readData_writeData_of_ne s v hb⟩
  · have hb : (decide (k < s.strTable.length) && decide (u.length ≤ Config.maxTextLen)) = true := by
      simp [hk, hu]
    exact ⟨_, loaderWrite_of_loaded hl hb, rfl, List.length_set, List.getElem?_set_self hk,
      fun j hj => List.getElem?_set_ne hj.symm⟩
  · exact ⟨loaderWrite_of_not_loaded hl, loaderWrite_of_not_loaded hl,
      loaderWrite_of_not_loaded hl, loaderWrite_of_not_loaded hl⟩
  · simp [hostAct, he]

/-- Settles O1: the case of `resetValues_of_draws` in which nothing has been drawn. -/
theorem resetLeavesTheGivenValues : Obligations.ResetLeavesTheGivenValues :=
  resetValues_of_draws 0

/-- Settles O47, from the rules of the register file. -/
theorem registersHoldWhatIsWritten : Obligations.RegistersHoldWhatIsWritten :=
  fun s i v => ⟨State.readX_writeX_self s i v, State.readF_writeF_self s i v,
    fun _ hj => ⟨State.readX_writeX_of_ne s v hj, State.readF_writeF_of_ne s v hj⟩,
    fun j => ⟨State.readF_writeX s i j v, State.readX_writeF s i j v⟩⟩

/-- Settles O56, from the effect of `start` and one rule for the code of every fault kind. -/
theorem startAndStatus : Obligations.StartAndStatus := by
  intro s
  have hkind {k : FaultKind} (h : s.fr.kind = some k) : s.fr.kindCode = k.code :=
    FaultRecord.kindCode_of_some h
  refine ⟨hostAct_start_of_loaded, hostAct_start_of_not_loaded, ?_, ?_, ?_,
    congrArg RunState.code, congrArg RunState.code, congrArg RunState.code,
    congrArg RunState.code, FaultRecord.kindCode_of_none, hkind, hkind, hkind, hkind, hkind,
    hkind, hkind, hkind, hkind, hkind⟩
  · rintro (h | h) <;> simp [State.exitStatus, h]
  · intro h; simp [State.exitStatus, h]
  · intro h; simp [State.exitStatus, h]

end Sys2Proof.Proofs

/-! The loads and stores on operands in range (`spec/45_load_store.md` R221, R222, R225, R226), and
what a load finds in the cell a store has written (`spec/20_memory.md` R62, R63). -/

namespace Sys2Proof.Machine

open Claim

theorem withRegCell_of_some {i : Instr} {o addr : Word} {s : State}
    {body : Fin 32 → Fin Config.dataCapacity → State} {r : Fin 32} {a : Fin Config.dataCapacity}
    (hr : reg? o = some r) (ha : cell? addr = some a) :
    withRegCell i o addr s body = body r a := by
  simp [withRegCell, withReg_of_some hr, ha]

section LoadStore
variable {o addr : Word} {r : Fin 32} {a : Fin 1024}

theorem withRegCell_of_is {i : Instr} {s : State}
    {body : Fin 32 → Fin Config.dataCapacity → State} (hr : Is o r) (ha : Is addr a) :
    withRegCell i o addr s body = body r a :=
  withRegCell_of_some (reg?_eq_some_iff.mpr hr) (cell?_eq_some_iff.mpr ha)

theorem exec_ldwi_of_is (hr : Is o r) (ha : Is addr a) (u : Word) (s : State) :
    exec (.ldwi o addr u) s = .next (s.writeX r (s.readData a)).advance :=
  congrArg Host.Outcome.next (withRegCell_of_is hr ha)

theorem exec_ldwf_of_is (hr : Is o r) (ha : Is addr a) (u : Word) (s : State) :
    exec (.ldwf o addr u) s = .next (s.writeF r (s.readData a)).advance :=
  congrArg Host.Outcome.next (withRegCell_of_is hr ha)

theorem exec_stwi_of_is (hr : Is o r) (ha : Is addr a) (u : Word) (s : State) :
    exec (.stwi addr o u) s = .next (s.writeData a (s.readX r)).advance :=
  congrArg Host.Outcome.next (withRegCell_of_is hr ha)

theorem exec_stwf_of_is (hr : Is o r) (ha : Is addr a) (u : Word) (s : State) :
    exec (.stwf addr o u) s = .next (s.writeData a (s.readF r)).advance :=
  congrArg Host.Outcome.next (withRegCell_of_is hr ha)

/-- R62: the integer port takes the bits of the cell as they are. -/
theorem ldwi_takes_cell {t : State} {w : Word} (hr : Is o r) (ha : Is addr a)
    (hw : t.readData a = w) (u : Word) :
    ∃ t', exec (.ldwi o addr u) t = .next t' ∧ t'.readX r = w :=
  ⟨_, exec_ldwi_of_is hr ha u t, by simp [hw]⟩

/-- R62: the float port takes the bits of the cell as they are. -/
theorem ldwf_takes_cell {t : State} {w : Word} (hr : Is o r) (ha : Is addr a)
    (hw : t.readData a = w) (u : Word) :
    ∃ t', exec (.ldwf o addr u) t = .next t' ∧ t'.readF r = w :=
  ⟨_, exec_ldwf_of_is hr ha u t, by simp [hw]⟩

end LoadStore

/-- What both stores leave: the stored word in its cell, every other cell as it was. -/
theorem readData_of_stored {s : State} (hwf : Memory.wf 1024 s.dataMem = true) (a : Fin 1024)
    (w : Word) :
    (s.writeData a w).advance.readData a = w ∧
      ∀ c, c ≠ a.val → (s.writeData a w).advance.readData c = s.readData c :=
  ⟨State.readData_writeData_self w hwf, fun _ hc => State.readData_writeData_of_ne s w hc⟩

end Sys2Proof.Machine

namespace Sys2Proof.Proofs

open Machine Claim

/-- Settles O48: either store leaves the register's bits in the cell, and either load takes the bits
it finds there. -/
theorem storeThenLoadMovesTheSameBits : Obligations.StoreThenLoadMovesTheSameBits := by
  intro s addr src dst u v a p q hwf ha hp hq
  constructor
  · obtain ⟨hcell, hothers⟩ := readData_of_stored hwf a (s.readX p)
    exact ⟨_, exec_stwi_of_is hp ha u s, hothers, ldwi_takes_cell hq ha hcell v,
      ldwf_takes_cell hq ha hcell v⟩
  · obtain ⟨hcell, hothers⟩ := readData_of_stored hwf a (s.readF p)
    exact ⟨_, exec_stwf_of_is hp ha u s, hothers, ldwf_takes_cell hq ha hcell v,
      ldwi_takes_cell hq ha hcell v⟩

end Sys2Proof.Proofs

/-! The decoder and the encoder (`spec/30_encoding.md` R90, R91, R101, R102): they undo each other,
and the words the decoder rejects. -/

namespace Sys2Proof

/-- The two readings of the opcode map of R101 agree on every instruction. -/
theorem instrOfFields_of_fields (i : Instr) : instrOfFields i.fields = .ok i := by
  cases i <;> rfl

theorem decode_encode (i : Instr) : decode (encode i) = .ok i :=
  calc decode (encode i)
    _ = instrOfFields i.fields := congrArg instrOfFields (splitWord_joinFields i.fields)
    _ = .ok i := instrOfFields_of_fields i

theorem decode_of_encode {w : InstrWord} {i : Instr} (h : encode i = w) : decode w = .ok i :=
  h ▸ decode_encode i

theorem encode_of_decode {w : InstrWord} {i : Instr} (h : decode w = .ok i) : encode i = w :=
  calc encode i
    _ = joinFields (splitWord w) := congrArg joinFields (instrOfFields_fields h)
    _ = w := joinFields_splitWord w

theorem Instr.opcode_lt (i : Instr) : i.fields.op.toNat < 41 := by
  cases i <;> exact Nat.le_of_ble_eq_true rfl

/-- Every opcode number below 41 has its row in the map of R101. -/
theorem instrOfFields_ne_error {q : Fields} (h : q.op.toNat < 41) (e : DecodeReject) :
    instrOfFields q ≠ .error e := by
  unfold instrOfFields
  generalize q.op.toNat = n at h
  interval_cases n <;> rintro ⟨⟩

/-- R102: the rejected opcode numbers are those from 41 up. -/
theorem instrOfFields_error_iff {q : Fields} :
    (∃ e, instrOfFields q = .error e) ↔ 41 ≤ q.op.toNat := by
  constructor
  · rintro ⟨e, he⟩
    exact Nat.le_of_not_lt fun hlt => instrOfFields_ne_error hlt e he
  · intro hop
    cases h : instrOfFields q with
    | error e => exact ⟨e, rfl⟩
    | ok i =>
      have hlt := i.opcode_lt
      rw [instrOfFields_fields h] at hlt
      omega

theorem decode_error_iff {w : InstrWord} :
    (∃ e, decode w = .error e) ↔ 41 ≤ (w.extractLsb' 96 32).toNat :=
  instrOfFields_error_iff

end Sys2Proof

namespace Sys2Proof.Machine

open Claim

/-- Fault entry after `n` consumed bytes writes what R293 says and nothing else. -/
theorem entersFault_takeFault (s : State) (n : Nat) (k : FaultKind) (q : Option Fields) :
    EntersFault s ((s.consume n).takeFault k q) k q n where
  frame :=
    { pc := rfl
      x := fun _ _ => rfl
      f := fun _ _ => rfl
      data := fun _ _ => rfl
      slots := fun _ _ => rfl
      slotCount := rfl
      instr := fun _ => rfl
      pool := rfl
      inBytes := rfl
      inEnded := rfl
      inPos := rfl
      out := (List.append_nil _).symm
      draws := rfl }
  run := rfl
  kind := rfl
  faultPc := rfl
  validInstr := rfl
  fields := rfl

/-! ### Operands in their legal ranges (`spec/30_encoding.md` R94) pass the checks of R9 -/

theorem inRange_iff {n : Nat} {o : Word} :
    inRange n o = true ↔ 0 ≤ o.toInt ∧ o.toInt < n := by
  simp [inRange]

theorem exists_index_of_inRange {n : Nat} {o : Word} (h : inRange n o = true) :
    ∃ k, index? n o = some k := by
  refine Option.ne_none_iff_exists'.1 fun hnone => ?_
  have hin := inRange_iff.1 h
  have hout := index?_eq_none_iff.1 hnone
  omega

theorem exists_reg_of_isReg {o : Word} (h : isReg o = true) : ∃ r, reg? o = some r :=
  exists_index_of_inRange h

theorem exists_cell_of_isDataAddr {o : Word} (h : isDataAddr o = true) : ∃ a, cell? o = some a :=
  exists_index_of_inRange h

theorem exists_text_of_isSlot {table : List Text} {o : Word}
    (hlen : table.length = Config.strCapacity) (h : isSlot o = true) :
    ∃ t, text? table o = some t := by
  refine Option.ne_none_iff_exists'.1 fun hnone => ?_
  have hin := inRange_iff.1 h
  have hout := text?_eq_none_iff.1 hnone
  omega

theorem exists_service_of_isCode {code : Word} (h : isCode code = true) :
    ∃ v, service? code = some v := by
  obtain ⟨hlo, hhi⟩ := inRange_iff.1 h
  unfold service?
  generalize code.toInt = c at hlo hhi
  interval_cases c <;> exact ⟨_, rfl⟩

/-! ### The faults of well-formed instructions -/

/-- The faults left to `i` when its operands are in range: no range fault, save that `SSTR` may name
a pool entry the loader did not supply (R94). -/
def AllowedFault (i : Instr) : FaultKind → Prop
  | .operandOutOfRange => False
  | .dataAddressOutOfRange => False
  | .invalidSyscall => False
  | .stringIndexOutOfRange => ∃ k u2 u3, i = .sstr k u2 u3
  | _ => True

/-- If `t` is Faulted, its recorded fault is one that is left to `i`. -/
def FaultAllowed (i : Instr) (t : State) : Prop :=
  t.run = .faulted → ∃ k, t.fr.kind = some k ∧ AllowedFault i k

section Shapes
variable {i : Instr} {s t : State}

/-- A state that is as little Faulted as `s`. -/
theorem FaultAllowed.of_run (hs : s.run ≠ .faulted) (h : t.run = s.run) : FaultAllowed i t :=
  fun ht => absurd (h ▸ ht) hs

theorem FaultAllowed.raise {k : FaultKind} (hk : AllowedFault i k) : FaultAllowed i (s.raise k i) :=
  fun _ => ⟨k, rfl, hk⟩

theorem faultAllowed_withReg {o : Word} {body : Fin 32 → State} (ho : isReg o = true)
    (h : ∀ r, FaultAllowed i (body r)) : FaultAllowed i (withReg i o s body) := by
  obtain ⟨r, hr⟩ := exists_reg_of_isReg ho
  rw [withReg_of_some hr]
  exact h r

theorem faultAllowed_withRegs3 {o1 o2 o3 : Word} {body : Fin 32 → Fin 32 → Fin 32 → State}
    (ho : (isReg o1 && isReg o2 && isReg o3) = true) (h : ∀ d a b, FaultAllowed i (body d a b)) :
    FaultAllowed i (withRegs3 i o1 o2 o3 s body) := by
  simp only [Bool.and_eq_true] at ho
  obtain ⟨⟨ho1, ho2⟩, ho3⟩ := ho
  obtain ⟨d, hd⟩ := exists_reg_of_isReg ho1
  obtain ⟨a, ha⟩ := exists_reg_of_isReg ho2
  obtain ⟨b, hb⟩ := exists_reg_of_isReg ho3
  rw [withRegs3_of_some hd ha hb]
  exact h d a b

theorem faultAllowed_withRegCell {o addr : Word}
    {body : Fin 32 → Fin Config.dataCapacity → State}
    (ho : (isReg o && isDataAddr addr) = true) (h : ∀ r a, FaultAllowed i (body r a)) :
    FaultAllowed i (withRegCell i o addr s body) := by
  obtain ⟨hreg, haddr⟩ := Bool.and_eq_true_iff.1 ho
  obtain ⟨r, hr⟩ := exists_reg_of_isReg hreg
  obtain ⟨a, ha⟩ := exists_cell_of_isDataAddr haddr
  rw [withRegCell_of_some hr ha]
  exact h r a

theorem faultAllowed_withSlot {o : Word} {body : Text → State}
    (hlen : s.strTable.length = Config.strCapacity) (ho : isSlot o = true)
    (h : ∀ t, FaultAllowed i (body t)) : FaultAllowed i (withSlot i o s body) := by
  obtain ⟨t, ht⟩ := exists_text_of_isSlot hlen ho
  rw [withSlot, ht]
  exact h t

theorem faultAllowed_withRegSlots {o1 o2 o3 : Word} {body : Fin 32 → Text → Text → State}
    (hlen : s.strTable.length = Config.strCapacity)
    (ho : (isReg o1 && isSlot o2 && isSlot o3) = true)
    (h : ∀ d t u, FaultAllowed i (body d t u)) :
    FaultAllowed i (withRegSlots i o1 o2 o3 s body) := by
  simp only [Bool.and_eq_true] at ho
  obtain ⟨⟨ho1, ho2⟩, ho3⟩ := ho
  exact faultAllowed_withReg ho1 fun d =>
    faultAllowed_withSlot hlen ho2 fun t => faultAllowed_withSlot hlen ho3 fun u => h d t u

theorem faultAllowed_branchOn (hs : s.run ≠ .faulted) {o : Word} (ho : isReg o = true)
    (sense : Bool) (off : Word) : FaultAllowed i (branchOn sense i o off s) :=
  faultAllowed_withReg ho fun r => by
    split
    · exact .raise trivial
    · split
      · exact .of_run hs rfl
      · exact .of_run hs rfl

/-- A read faults by itself only for want of a token; the other faults are those of its `store`. -/
theorem faultAllowed_readService (hs : s.run ≠ .faulted)
    {store : Text → State → Except FaultKind State}
    (hok : ∀ w u u', store w u = .ok u' → u'.run = u.run)
    (herror : ∀ w u k, store w u = .error k → AllowedFault i k) :
    FaultAllowed i (readService i s store) := by
  unfold readService
  split
  next => exact .of_run hs rfl
  next => exact .raise trivial
  next w n _ =>
    split
    next u hu => exact .of_run hs (hok w (s.consume n) u hu)
    next k hk => exact .raise (herror w _ k hk)

/-- A service whose operand has the range R94 gives for its code. -/
theorem faultAllowed_runService (hs : s.run ≠ .faulted)
    (hlen : s.strTable.length = Config.strCapacity) (v : Service) {x u3 : Word}
    (hw : (Instr.call v.number x u3).WellFormed = true) :
    FaultAllowed i (runService i x s v) := by
  cases v with
  | readInt | readFloat | readBool =>
    refine faultAllowed_withReg hw fun r => faultAllowed_readService hs ?_ ?_
    all_goals
      intro w u k h
      split at h <;> cases h
    · rfl
    · trivial
  | readString =>
    refine faultAllowed_withSlot hlen hw fun _ => faultAllowed_readService hs ?_ ?_
    all_goals
      intro w u k h
      split at h <;> cases h
    · rfl
    · trivial
  | writeInt | writeFloat => exact faultAllowed_withReg hw fun r => .of_run hs rfl
  | writeBool =>
    refine faultAllowed_withReg hw fun r => ?_
    split
    · exact .of_run hs rfl
    · exact .raise trivial
  | writeString => exact faultAllowed_withSlot hlen hw fun t => .of_run hs rfl

theorem faultAllowed_sstr (hs : s.run ≠ .faulted) (hlen : s.strTable.length = Config.strCapacity)
    {k u2 u3 : Word} (hk : isSlot k = true) (h : execSstr k u2 u3 s = .next t) :
    FaultAllowed (.sstr k u2 u3) t := by
  cases next_inj h
  split
  · exact .raise ⟨k, u2, u3, rfl⟩
  · refine faultAllowed_withSlot hlen hk fun _ => ?_
    split
    · exact .raise trivial
    · exact .of_run hs rfl

/-- A well-formed instruction takes no fault but those left to it. -/
theorem exec_faultAllowed (hw : i.WellFormed = true)
    (hlen : s.strTable.length = Config.strCapacity) (hs : s.run ≠ .faulted)
    (h : exec i s = .next t) : FaultAllowed i t := by
  cases i with
  | halt u1 u2 u3 => cases next_inj h; exact fun ht => by cases ht
  | noop u1 u2 u3 | jump addr u2 u3 => cases next_inj h; exact .of_run hs rfl
  | addi d a b | subi d a b | muli d a b | equi d a b | neqi d a b | lthi d a b | ltei d a b
  | gthi d a b | gtei d a b | equf d a b | neqf d a b | lthf d a b | ltef d a b | gthf d a b
  | gtef d a b =>
    cases next_inj h
    exact faultAllowed_withRegs3 hw fun _ _ _ => .of_run hs rfl
  | divi d a b | modi d a b =>
    cases next_inj h
    refine faultAllowed_withRegs3 hw fun _ _ _ => ?_
    split
    · exact .raise trivial
    · exact .of_run hs rfl
  | addf d a b | subf d a b | mulf d a b | divf d a b | modf d a b =>
    cases next_inj h
    exact faultAllowed_withRegs3 hw fun _ _ _ => .of_run hs (State.writeFloat_run ..)
  | equs d j k | neqs d j k | lths d j k | ltes d j k | gths d j k | gtes d j k =>
    cases next_inj h
    exact faultAllowed_withRegSlots hlen hw fun _ _ _ => .of_run hs rfl
  | botb r off u3 | bofb r off u3 => cases next_inj h; exact faultAllowed_branchOn hs hw _ _
  | ldwi d addr u3 | ldwf d addr u3 | stwi addr r u3 | stwf addr r u3 =>
    cases next_inj h
    exact faultAllowed_withRegCell hw fun _ _ => .of_run hs rfl
  | ldii d c u3 | ldif d c u3 =>
    cases next_inj h
    exact faultAllowed_withReg hw fun _ => .of_run hs rfl
  | sstr k u2 u3 => exact faultAllowed_sstr hs hlen hw h
  | call code x u3 =>
    obtain ⟨v, hv⟩ := exists_service_of_isCode (Bool.and_eq_true_iff.1 hw).1
    cases next_inj h
    rw [hv]
    rw [eq_number_of_service? hv] at hw
    exact faultAllowed_runService hs hlen v hw

end Shapes

end Sys2Proof.Machine

namespace Sys2Proof.Proofs

open Machine Claim

/-- Settles O9: splitting undoes joining, and the two readings of the opcode map agree. -/
theorem decodeOfEncodeIsTheInstruction : Obligations.DecodeOfEncodeIsTheInstruction :=
  decode_encode

/-- Settles O10, the converse, from the fields an accepted word has. -/
theorem encodeOfDecodeIsTheWord : Obligations.EncodeOfDecodeIsTheWord :=
  fun _ _ => encode_of_decode

/-- Settles O8: a rejected opcode number is one that no instruction has. -/
theorem illegalOpcodesAreRejectedAndFault : Obligations.IllegalOpcodesAreRejectedAndFault := by
  refine ⟨fun _ => decode_error_iff, fun s a hr ha hop => ?_⟩
  obtain ⟨e, he⟩ := decode_error_iff.2 hop
  exact ⟨_, step_of_decode_error hr (fetch_of_toInt a.isLt ha) he, entersFault_takeFault s 0 _ _⟩

/-- Settles O59, from the faults that are left to a well-formed instruction. -/
theorem wellFormedInstructionsTakeNoRangeFault :
    Obligations.WellFormedInstructionsTakeNoRangeFault := by
  intro i s t hw hlen hs h ht
  obtain ⟨k, hk, hallowed⟩ := exec_faultAllowed hw hlen hs h ht
  rw [hk]
  refine ⟨?_, ?_, ?_, ?_⟩ <;> rintro ⟨⟩ <;> exact hallowed

/-- Settles O11, by evaluating the encoder at each instruction. -/
theorem writtenOutWordsDecode : Obligations.WrittenOutWordsDecode :=
  ⟨decode_of_encode (by decide), decode_of_encode (by decide), decode_of_encode (by decide),
    decode_of_encode (by decide), decode_of_encode (by decide), decode_of_encode (by decide),
    decode_of_encode (by decide), decode_of_encode (by decide)⟩

end Sys2Proof.Proofs

/-! The cycle of the engine (`spec/40_engine_cycle.md` R121 to R129): the steps that leave the state
as it is, which are those of a waiting read and those of an instruction that goes to itself. -/

namespace Sys2Proof.Machine

open Claim

/-! ### Reads that wait -/

theorem isSpace_iff {c : Byte} : isSpace c = true ↔ Space c := by
  simp [isSpace, Space, or_assoc]

/-- What follows the leading whitespace, when it has no token byte in front, is empty. -/
theorem dropWhile_isSpace_eq_nil {bytes : List Byte}
    (h : (bytes.dropWhile isSpace).takeWhile (fun c => !isSpace c) = []) :
    bytes.dropWhile isSpace = [] := by
  cases hrest : bytes.dropWhile isSpace with
  | nil => rfl
  | cons c rest =>
    have hc : isSpace c = false := by
      simpa [hrest] using List.head?_dropWhile_not isSpace bytes
    simp [hrest, hc] at h

/-- R253: the scan is blocked when the stream goes on and no whitespace has ended a token. -/
theorem scanToken_eq_blocked_iff {ended : Bool} {bytes : List Byte} :
    scanToken ended bytes = .blocked ↔
      ended = false ∧ (bytes.dropWhile isSpace).dropWhile (fun c => !isSpace c) = [] := by
  unfold scanToken
  simp only
  split
  next htok =>
    have hrest := dropWhile_isSpace_eq_nil htok
    cases ended <;> simp [hrest]
  next =>
    split
    next h => simp [h]
    next h => simpa [and_comm] using h

/-- Whitespace followed by token bytes is what two rounds of `dropWhile` use up. -/
theorem dropWhile_dropWhile_eq_nil_iff {bytes : List Byte} :
    (bytes.dropWhile isSpace).dropWhile (fun c => !isSpace c) = [] ↔
      ∃ spaces w : List Byte, bytes = spaces ++ w ∧ (∀ c ∈ spaces, Space c) ∧
        ∀ c ∈ w, ¬ Space c := by
  simp only [List.dropWhile_eq_nil_iff, ← isSpace_iff, Bool.not_eq_true']
  constructor
  · intro h
    exact ⟨_, _, List.takeWhile_append_dropWhile.symm, fun c => List.mem_takeWhile_imp,
      fun c hc => by simp [h c hc]⟩
  · rintro ⟨spaces, w, rfl, hspaces, hw⟩ c hc
    rw [List.dropWhile_append_of_pos hspaces] at hc
    exact Bool.eq_false_iff.2 (hw c ((List.dropWhile_suffix _).subset hc))

/-- The model's `next_token()` is blocked exactly when R253 and R267 say that it cannot return. -/
theorem nextToken_eq_blocked_iff {s : State} : s.nextToken = .blocked ↔ MustWait s :=
  scanToken_eq_blocked_iff.trans (and_congr_right fun _ => dropWhile_dropWhile_eq_nil_iff)

theorem reg?_isSome_iff {o : Word} : (reg? o).isSome = true ↔ ∃ r : Fin 32, Is o r :=
  Option.isSome_iff_exists.trans (exists_congr fun _ => reg?_eq_some_iff)

theorem text?_isSome_iff {table : List Text} {o : Word} :
    (text? table o).isSome = true ↔ ∃ k : Fin table.length, Is o k := by
  rw [Option.isSome_iff_exists]
  constructor
  · rintro ⟨t, ht⟩
    obtain ⟨k, hk, hget⟩ := text?_eq_some_iff.1 ht
    exact ⟨⟨k, (List.getElem?_eq_some_iff.1 hget).1⟩, hk⟩
  · rintro ⟨k, hk⟩
    exact ⟨table[k], text?_eq_some_iff.2 ⟨k, hk, List.getElem?_eq_getElem k.isLt⟩⟩

/-- R255 to R258: the codes whose service reads a token, with the operand check of each. -/
theorem startsRead_iff {s : State} {code x : Word} :
    (∃ v, service? code = some v ∧ s.startsRead x v = true) ↔
      ((code = 0 ∨ code = 1 ∨ code = 2) ∧ ∃ r : Fin 32, Is x r) ∨
        (code = 3 ∧ ∃ k : Fin s.strTable.length, Is x k) := by
  constructor
  · rintro ⟨v, hv, hx⟩
    rw [eq_number_of_service? hv]
    cases v with
    | readInt => exact .inl ⟨.inl rfl, reg?_isSome_iff.1 hx⟩
    | readFloat => exact .inl ⟨.inr (.inl rfl), reg?_isSome_iff.1 hx⟩
    | readBool => exact .inl ⟨.inr (.inr rfl), reg?_isSome_iff.1 hx⟩
    | readString => exact .inr ⟨rfl, text?_isSome_iff.1 hx⟩
    | writeInt | writeFloat | writeBool | writeString => cases hx
  · rintro (⟨rfl | rfl | rfl, hx⟩ | ⟨rfl, hx⟩)
    · exact ⟨.readInt, rfl, reg?_isSome_iff.2 hx⟩
    · exact ⟨.readFloat, rfl, reg?_isSome_iff.2 hx⟩
    · exact ⟨.readBool, rfl, reg?_isSome_iff.2 hx⟩
    · exact ⟨.readString, rfl, text?_isSome_iff.2 hx⟩

/-- A `CALL` waits when it has started a read that `next_token()` cannot answer (R128, R267). -/
theorem waitsIn_call {s : State} {code x u3 : Word}
    (hread : ∃ v, service? code = some v ∧ s.startsRead x v = true) (hwait : MustWait s) :
    s.WaitsIn (.call code x u3) := by
  obtain ⟨v, hv, hx⟩ := hread
  exact ⟨code, x, u3, v, rfl, hv, hx, nextToken_eq_blocked_iff.2 hwait⟩

theorem waiting_iff {s : State} :
    s.Waiting ↔ s.run = .running ∧ AtStartedRead s ∧ MustWait s := by
  constructor
  · rintro ⟨hr, w, _, hf, hd, code, x, u3, v, rfl, hv, hx, hb⟩
    obtain ⟨a, ha, rfl⟩ := fetch_eq_some hf
    exact ⟨hr, ⟨a, code, x, u3, ha, hd, startsRead_iff.1 ⟨v, hv, hx⟩⟩,
      nextToken_eq_blocked_iff.1 hb⟩
  · rintro ⟨hr, ⟨a, code, x, u3, ha, hd, hread⟩, hwait⟩
    exact ⟨hr, _, _, fetch_of_toInt a.isLt ha, hd,
      waitsIn_call (startsRead_iff.2 hread) hwait⟩

/-! ### Instructions that go to their own address -/

/-- R204: the branch target is its own address plus the offset, as a 32-bit sum. -/
theorem branchTarget_eq_add (pc off : Word) : branchTarget pc off = pc + off := by
  simp [branchTarget, wrap32, BitVec.ofInt_add]

theorem branchTarget_eq_self_iff {pc off : Word} : branchTarget pc off = pc ↔ off = 0 := by
  rw [branchTarget_eq_add]
  exact BitVec.add_right_eq_self

theorem branchOn_of_taken {sense : Bool} {i : Instr} {o off : Word} {s : State} {r : Fin 32}
    (hr : reg? o = some r) (ht : truthOf (s.readX r) = some sense) :
    branchOn sense i o off s = s.setPc (branchTarget s.pc off) := by
  simp [branchOn, withReg_of_some hr, ht]

/-- A transfer that is made writes its target to `pc` and nothing else. -/
theorem exec_of_goesTo {i : Instr} {s : State} {p : Word} (h : s.GoesTo i p) :
    exec i s = .next (s.setPc p) := by
  rcases h with ⟨u2, u3, rfl⟩ | ⟨o, off, u3, r, hr, rfl, ⟨rfl, ht⟩ | ⟨rfl, ht⟩⟩
  · rfl
  · exact congrArg Host.Outcome.next (branchOn_of_taken hr ht)
  · exact congrArg Host.Outcome.next (branchOn_of_taken hr ht)

theorem loopsToItself_iff {s : State} {a : Fin 1024} :
    LoopsToItself s a ↔ ∃ i, decode (s.readInstr a) = .ok i ∧ s.GoesTo i s.pc := by
  have htarget : s.pc = branchTarget s.pc 0 := (branchTarget_eq_self_iff.2 rfl).symm
  constructor
  · rintro (⟨u, v, hd⟩ | ⟨w, v, r, hw, hx, hd⟩ | ⟨w, v, r, hw, hx, hd⟩)
    · exact ⟨_, hd, .inl ⟨u, v, rfl⟩⟩
    · exact ⟨_, hd, .inr ⟨w, 0, v, r, reg?_eq_some_iff.2 hw, htarget,
        .inl ⟨rfl, truthOf_eq_true_iff.2 hx⟩⟩⟩
    · exact ⟨_, hd, .inr ⟨w, 0, v, r, reg?_eq_some_iff.2 hw, htarget,
        .inr ⟨rfl, truthOf_eq_false_iff.2 hx⟩⟩⟩
  · rintro ⟨_, hd, ⟨u, v, rfl⟩ | ⟨w, off, v, r, hw, hp, hi⟩⟩
    · exact .inl ⟨u, v, hd⟩
    · cases branchTarget_eq_self_iff.1 hp.symm
      rcases hi with ⟨rfl, ht⟩ | ⟨rfl, ht⟩
      · exact .inr (.inl ⟨w, v, r, reg?_eq_some_iff.1 hw, truthOf_eq_true_iff.1 ht, hd⟩)
      · exact .inr (.inr ⟨w, v, r, reg?_eq_some_iff.1 hw, truthOf_eq_false_iff.1 ht, hd⟩)

theorem step_of_loopsToItself {s : State} {a : Fin 1024} (hr : s.run = .running) (ha : Is s.pc a)
    (h : LoopsToItself s a) : step s = .next s := by
  obtain ⟨i, hd, hi⟩ := loopsToItself_iff.1 h
  rw [step_of_decode_ok hr (fetch_of_toInt a.isLt ha) hd, exec_of_goesTo hi]
  rfl

/-- A state that a step leaves as it is stays for any number of steps. -/
theorem run_of_step_self {M : Host.Core} {s : M.State} (h : M.step s = .next s) (n : Nat) :
    M.run n s = .next s := by
  induction n with
  | zero => rfl
  | succ n ih => rw [run_succ_of_next n h, ih]

/-! ### Steps that change nothing -/

@[simp] theorem State.writeFloat_pc (s : State) (d : Fin 32) (r : FloatResult) :
    (s.writeFloat d r).pc = s.pc := by
  cases r <;> rfl

/-- How an instruction leaves `pc` (R29): it waits, ends the run, transfers control, or advances. -/
theorem Effect.pc_cases {i : Instr} {s t : State} (h : Effect i s t) :
    s.WaitsIn i ∨ t.run ≠ .running ∨ s.GoesTo i t.pc ∨ t.pc = s.pc + 1 := by
  cases h with
  | waits h => exact .inl h
  | halts | faults | faultsAfter => exact .inr (.inl (by simp))
  | jumps p h => exact .inr (.inr (.inl h))
  | advances | setsX | setsF | setsCell | setsSlot | emits | readsX | readsF | readsSlot =>
    exact .inr (.inr (.inr (by simp)))

/-- An instruction of a running engine that changes nothing waits or goes to its own address. -/
theorem waitsIn_or_goesTo_of_exec_self {i : Instr} {s : State} (hr : s.run = .running)
    (h : exec i s = .next s) : s.WaitsIn i ∨ s.GoesTo i s.pc := by
  rcases (exec_effect i h).pc_cases with hw | hne | hg | hpc
  · exact .inl hw
  · exact absurd hr hne
  · exact .inr hg
  · exact absurd (BitVec.self_eq_add_right.1 hpc) (by decide)

/-- Neither fault of the step itself leaves a running engine, so such a step ran an instruction. -/
theorem exec_self_of_step_self {s : State} (hr : s.run = .running) (h : step s = .next s) :
    ∃ w i, fetch s = some w ∧ decode w = .ok i ∧ exec i s = .next s := by
  have hfault (k : FaultKind) (q : Option Fields) : s ≠ s.takeFault k q := fun e => by
    have hf : s.run = .faulted := congrArg State.run e
    simp [hr] at hf
  rcases step_cases h with ⟨hne, _⟩ | ⟨_, _, e⟩ | ⟨_, w, e, _, _, e'⟩ | ⟨_, hx⟩
  · exact absurd hr hne
  · exact absurd e (hfault _ _)
  · exact absurd e' (hfault _ _)
  · exact hx

theorem step_self_iff {s : State} (hr : s.run = .running) :
    step s = .next s ↔ s.Waiting ∨ ∃ a : Fin 1024, Is s.pc a ∧ LoopsToItself s a := by
  constructor
  · intro h
    obtain ⟨w, i, hf, hd, hx⟩ := exec_self_of_step_self hr h
    rcases waitsIn_or_goesTo_of_exec_self hr hx with hw | hg
    · exact .inl ⟨hr, w, i, hf, hd, hw⟩
    · obtain ⟨a, ha, rfl⟩ := fetch_eq_some hf
      exact .inr ⟨a, ha, loopsToItself_iff.2 ⟨i, hd, hg⟩⟩
  · rintro (hw | ⟨a, ha, hl⟩)
    · exact step_of_waiting hw
    · exact step_of_loopsToItself hr ha hl

end Sys2Proof.Machine

namespace Sys2Proof.Proofs

open Machine Claim

/-- Settles O31: a blocked `next_token()` is what makes a started read wait, and of the other
effects of an instruction only a transfer to its own address leaves `pc` and `RUN` as they are. -/
theorem readsWaitWithoutEffect : Obligations.ReadsWaitWithoutEffect :=
  ⟨fun _ _ _ _ hwait =>
      ⟨fun hcode hx => exec_of_waitsIn (waitsIn_call (startsRead_iff.2 (.inl ⟨hcode, hx⟩)) hwait),
        fun hcode hx => exec_of_waitsIn (waitsIn_call (startsRead_iff.2 (.inr ⟨hcode, hx⟩)) hwait)⟩,
    fun _ => waiting_iff, fun _ => step_self_iff⟩

/-- Settles O60: one step of a self-loop answers the same state, so any number of them does. -/
theorem selfLoopsHang : Obligations.SelfLoopsHang :=
  fun _ _ n hr ha hl =>
    run_of_step_self (M := Sys2Proof.core) (step_of_loopsToItself hr ha hl) n

/-- Settles O5: the fetch at an instruction address answers its word. -/
theorem stepRunsTheDecodedInstruction : Obligations.StepRunsTheDecodedInstruction :=
  fun _ a _ hr ha hd => step_of_decode_ok hr (fetch_of_toInt a.isLt ha) hd

/-- Settles O7, by the run states other than Running. -/
theorem stepChangesNothingUnlessRunning : Obligations.StepChangesNothingUnlessRunning :=
  fun _ => step_of_not_running

end Sys2Proof.Proofs

/-! `HALT` and `NOOP` (`spec/41_control.md` R135, R136), with the frames of ending the run and of
writing `pc`. -/

namespace Sys2Proof.Machine

open Claim

/-- The word that R90 builds from the fields of `i` decodes to `i`. -/
theorem decode_wordOf {n : Nat} {o1 o2 o3 : Word} {i : Instr} (h : i.fields = fieldsOf n o1 o2 o3) :
    decode (wordOf n o1 o2 o3) = .ok i :=
  decode_of_encode <|
    calc encode i
      _ = joinFields (fieldsOf n o1 o2 o3) := congrArg joinFields h
      _ = wordOf n o1 o2 o3 := by rw [joinFields, fieldsOf, wordOf]

theorem exec_halt (u1 u2 u3 : Word) (s : State) : exec (.halt u1 u2 u3) s = .next s.halt := rfl

theorem exec_noop (u1 u2 u3 : Word) (s : State) : exec (.noop u1 u2 u3) s = .next s.advance := rfl

/-- A state differs from itself in nothing. -/
theorem frame_refl (s : State) : Frame s s { pc := s.pc } where
  pc := rfl
  x := fun _ _ => rfl
  f := fun _ _ => rfl
  data := fun _ _ => rfl
  slots := fun _ _ => rfl
  slotCount := rfl
  instr := fun _ => rfl
  pool := rfl
  inBytes := rfl
  inEnded := rfl
  inPos := rfl
  out := (List.append_nil _).symm
  draws := rfl

/-- Ending the run writes `RUN`, which no frame speaks of. -/
theorem frame_halt (s : State) : Frame s s.halt { pc := s.pc } :=
  { frame_refl s with }

theorem completes_setPc (s : State) (p : Word) : Completes s (s.setPc p) { pc := p } where
  frame := { frame_refl s with pc := State.setPc_pc s p }
  run := State.setPc_run s p
  fr := State.setPc_fr s p

theorem completes_advance (s : State) : Completes s s.advance { pc := s.pc + 1 } :=
  completes_setPc s (s.pc + 1)

theorem State.exitStatus_halt (s : State) : s.halt.exitStatus = some 0 := rfl

/-- After the end of the run no step fetches (R121, R135). -/
theorem step_halt (s : State) : step s.halt = .next s.halt :=
  step_of_not_running (by simp)

end Sys2Proof.Machine

namespace Sys2Proof.Proofs

open Machine Claim

/-- Settles O12: `HALT` ends the run and writes only `RUN`, and an ended run takes no step. -/
theorem haltStopsTheRun : Obligations.HaltStopsTheRun :=
  fun s u1 u2 u3 =>
    ⟨decode_wordOf rfl, s.halt, exec_halt u1 u2 u3 s, s.halt_run, s.halt_fr, s.exitStatus_halt,
      frame_halt s, step_halt s⟩

/-- Settles O13: `NOOP` is the sequential advance of `pc`, and that writes only `pc`. -/
theorem noopOnlyAdvances : Obligations.NoopOnlyAdvances :=
  fun s u1 u2 u3 => ⟨decode_wordOf rfl, s.advance, exec_noop u1 u2 u3 s, completes_advance s⟩

end Sys2Proof.Proofs

/-! The arithmetic instructions (`spec/42_arithmetic.md` R140 to R158): operand checks, results and
frames. -/

namespace Sys2Proof.Machine

open Claim

/-! ### Faults and frames of the register formats -/

/-- `raise` is fault entry with no input consumed (R293). -/
theorem raises_of_exec {i : Instr} {s : State} {k : FaultKind} {q : Fields} (hq : i.fields = q)
    (h : exec i s = .next (s.raise k i)) : Raises i s k q :=
  ⟨_, h, hq ▸ entersFault_takeFault s 0 k (some i.fields)⟩

theorem withRegs3_of_is {i : Instr} {o1 o2 o3 : Word} {s : State}
    {body : Fin 32 → Fin 32 → Fin 32 → State} {d a b : Fin 32}
    (hd : Is o1 d) (ha : Is o2 a) (hb : Is o3 b) : withRegs3 i o1 o2 o3 s body = body d a b :=
  withRegs3_of_some (reg?_eq_some_iff.2 hd) (reg?_eq_some_iff.2 ha) (reg?_eq_some_iff.2 hb)

theorem withRegs3_of_badIndex {i : Instr} {o1 o2 o3 : Word} {s : State}
    {body : Fin 32 → Fin 32 → Fin 32 → State}
    (h : BadIndex 32 o1 ∨ BadIndex 32 o2 ∨ BadIndex 32 o3) :
    withRegs3 i o1 o2 o3 s body = s.raise .operandOutOfRange i :=
  withRegs3_of_none (h.imp reg?_eq_none_iff.2 (.imp reg?_eq_none_iff.2 reg?_eq_none_iff.2))

/-- The frame of an instruction that writes the integer register `d` (R140). -/
theorem completes_writeX_advance (s : State) (d : Fin 32) (v : Word) :
    Completes s (s.writeX d v).advance { pc := s.pc + 1, xs := fun r => r = d } where
  frame :=
    { frame_refl s with
      pc := rfl
      x := fun _ hr => State.readX_writeX_of_ne s v hr
      f := fun r _ => State.readF_writeX s d r v }
  run := rfl
  fr := rfl

/-- The frame of an instruction that writes the float register `d` (R150). -/
theorem completes_writeF_advance (s : State) (d : Fin 32) (v : Word) :
    Completes s (s.writeF d v).advance { pc := s.pc + 1, fs := fun r => r = d } where
  frame :=
    { frame_refl s with
      pc := rfl
      x := fun r _ => State.readX_writeF s d r v
      f := fun _ hr => State.readF_writeF_of_ne s v hr }
  run := rfl
  fr := rfl

/-! ### Integer arithmetic -/

/-- R141 to R143 from the shape `intArith`: `f` is `op` on the signed values, reduced modulo
2^32. -/
theorem intArithRule_of_exec {n : Nat} {mk : Word → Word → Word → Instr} {op : Int → Int → Int}
    {f : Word → Word → Word} (hfields : ∀ o1 o2 o3, (mk o1 o2 o3).fields = fieldsOf n o1 o2 o3)
    (hexec : ∀ o1 o2 o3 s, exec (mk o1 o2 o3) s = .next (intArith (mk o1 o2 o3) o1 o2 o3 f s))
    (hf : ∀ u v, f u v = wrap32 (op u.toInt v.toInt)) : IntArithRule n mk op := by
  intro s o1 o2 o3
  refine ⟨decode_wordOf (hfields ..), fun d a b hd ha hb => ?_, fun hbad => ?_⟩
  · have hstep := hexec o1 o2 o3 s
    rw [intArith, withRegs3_of_is hd ha hb, hf] at hstep
    exact ⟨_, hstep, State.readX_writeX_self .., completes_writeX_advance s d _⟩
  · have hstep := hexec o1 o2 o3 s
    rw [intArith, withRegs3_of_badIndex hbad] at hstep
    exact raises_of_exec (hfields ..) hstep

/-- R144 and R145 from the shape `intDivide`, which looks at the divisor after the operand
checks. -/
theorem intDivideRule_of_exec {n : Nat} {mk : Word → Word → Word → Instr} {op : Int → Int → Int}
    {f : Word → Word → Word} (hfields : ∀ o1 o2 o3, (mk o1 o2 o3).fields = fieldsOf n o1 o2 o3)
    (hexec : ∀ o1 o2 o3 s, exec (mk o1 o2 o3) s = .next (intDivide (mk o1 o2 o3) o1 o2 o3 f s))
    (hf : ∀ u v, f u v = wrap32 (op u.toInt v.toInt)) : IntDivideRule n mk op := by
  intro s o1 o2 o3
  have hstep := hexec o1 o2 o3 s
  rw [intDivide] at hstep
  refine ⟨decode_wordOf (hfields ..), fun d a b hd ha hb hne => ?_, fun d a b hd ha hb hzero => ?_,
    fun hbad => ?_⟩
  · rw [withRegs3_of_is hd ha hb, if_neg hne, hf] at hstep
    exact ⟨_, hstep, State.readX_writeX_self .., completes_writeX_advance s d _⟩
  · rw [withRegs3_of_is hd ha hb, if_pos hzero] at hstep
    exact raises_of_exec (hfields ..) hstep
  · rw [withRegs3_of_badIndex hbad] at hstep
    exact raises_of_exec (hfields ..) hstep

/-! ### NaN results and float arithmetic -/

/-- The three parts of the NaN of a draw: its free fraction, the nine fixed bits, and its sign. -/
theorem getLsbD_quietNaN (d : BitVec 23) (i : Nat) :
    (quietNaN d).getLsbD i =
      if i < 22 then d.getLsbD i else if i < 31 then true else decide (i = 31) && d.getLsbD 22 := by
  have hones (j : Nat) : (0x1FF#9).getLsbD j = decide (j < 9) := BitVec.getLsbD_allOnes (v := 9)
  simp only [quietNaN, BitVec.getLsbD_append, BitVec.getLsbD_extractLsb', hones]
  grind

/-- R158 bit by bit: the exponent field and fraction bit 22 are the nine bits 30 to 22. -/
theorem quietNaN_iff {v : Word} :
    QuietNaN v ↔ ∀ i, 22 ≤ i → i < 31 → v.getLsbD i = true := by
  have hones (j : Nat) : (0xFF#8).getLsbD j = decide (j < 8) := BitVec.getLsbD_allOnes (v := 8)
  constructor
  · rintro ⟨hexp, hfrac⟩ i hlo hhi
    rcases hlo.eq_or_lt with rfl | hlo
    · exact hfrac
    · have hbit := congrArg (fun e : BitVec 8 => e.getLsbD (i - 23)) hexp
      simp only [BitVec.getLsbD_extractLsb', hones] at hbit
      grind
  · intro h
    refine ⟨BitVec.eq_of_getLsbD_eq fun i hi => ?_, h 22 (by decide) (by decide)⟩
    simp [hones, hi, h (23 + i) (by omega) (by omega)]

/-- The draw that gives the quiet NaN `v`. -/
def drawOf (v : Word) : BitVec 23 := v.extractLsb' 31 1 ++ v.extractLsb' 0 22

theorem quietNaN_drawOf {v : Word} (h : QuietNaN v) : quietNaN (drawOf v) = v := by
  refine BitVec.eq_of_getLsbD_eq fun i hi => ?_
  have hfixed := quietNaN_iff.1 h i
  simp only [getLsbD_quietNaN, drawOf, BitVec.getLsbD_append, BitVec.getLsbD_extractLsb']
  grind

theorem quietNaN_isQuiet (d : BitVec 23) : QuietNaN (quietNaN d) :=
  quietNaN_iff.2 fun i hlo hhi => by rw [getLsbD_quietNaN, if_neg (by omega), if_pos hhi]

/-- R158: a NaN result is some quiet NaN, and takes one draw. -/
theorem completes_writeFloat_nan_advance (s : State) (d : Fin 32) :
    Completes s (s.writeFloat d .nan).advance
      { pc := s.pc + 1, fs := fun r => r = d, drawn := 1 } where
  frame := { (completes_writeF_advance s d _).frame with draws := rfl }
  run := rfl
  fr := rfl

/-- R152 to R156 from the shape `floatArith`, by what the primitive gives. -/
theorem floatArithRule_of_exec {n : Nat} {mk : Word → Word → Word → Instr}
    {op : Word → Word → FloatResult}
    (hfields : ∀ o1 o2 o3, (mk o1 o2 o3).fields = fieldsOf n o1 o2 o3)
    (hexec : ∀ o1 o2 o3 s, exec (mk o1 o2 o3) s = .next (floatArith (mk o1 o2 o3) o1 o2 o3 op s)) :
    FloatArithRule n mk op := by
  intro s o1 o2 o3
  have hstep := hexec o1 o2 o3 s
  rw [floatArith] at hstep
  refine ⟨decode_wordOf (hfields ..), fun d a b hd ha hb => ?_, fun hbad => ?_⟩
  · rw [withRegs3_of_is hd ha hb] at hstep
    refine ⟨_, hstep, ?_⟩
    cases op (s.readF a) (s.readF b) with
    | num v => exact .inl ⟨v, rfl, State.readF_writeF_self s d v, completes_writeF_advance s d v⟩
    | nan =>
      have hread : (s.writeFloat d .nan).advance.readF d = quietNaN (Config.nanDraw s.nanDraws) :=
        State.readF_writeF_self s d _
      exact .inr ⟨rfl, hread ▸ quietNaN_isQuiet _, completes_writeFloat_nan_advance s d⟩
  · rw [withRegs3_of_badIndex hbad] at hstep
    exact raises_of_exec (hfields ..) hstep

end Sys2Proof.Machine

namespace Sys2Proof.Proofs

open Machine Claim

/-- Settles O14, each operation from the shape the three share. -/
theorem addSubMulWrapAndFrame : Obligations.AddSubMulWrapAndFrame :=
  ⟨intArithRule_of_exec (f := addWord) (fun _ _ _ => rfl) (fun _ _ _ _ => rfl) fun _ _ => rfl,
    intArithRule_of_exec (f := subWord) (fun _ _ _ => rfl) (fun _ _ _ _ => rfl) fun _ _ => rfl,
    intArithRule_of_exec (f := mulWord) (fun _ _ _ => rfl) (fun _ _ _ _ => rfl) fun _ _ => rfl⟩

/-- Settles O15, both operations from the shape they share. -/
theorem divModTruncateOrFault : Obligations.DivModTruncateOrFault :=
  ⟨intDivideRule_of_exec (f := divWord) (fun _ _ _ => rfl) (fun _ _ _ _ => rfl) fun _ _ => rfl,
    intDivideRule_of_exec (f := modWord) (fun _ _ _ => rfl) (fun _ _ _ _ => rfl) fun _ _ => rfl⟩

/-- Settles O16, each operation from the shape the five share. -/
theorem floatArithmeticWritesItsPrimitive : Obligations.FloatArithmeticWritesItsPrimitive :=
  ⟨floatArithRule_of_exec (fun _ _ _ => rfl) fun _ _ _ _ => rfl,
    floatArithRule_of_exec (fun _ _ _ => rfl) fun _ _ _ _ => rfl,
    floatArithRule_of_exec (fun _ _ _ => rfl) fun _ _ _ _ => rfl,
    floatArithRule_of_exec (fun _ _ _ => rfl) fun _ _ _ _ => rfl,
    floatArithRule_of_exec (fun _ _ _ => rfl) fun _ _ _ _ => rfl⟩

/-- Settles O46: the draw of a quiet NaN is read off its bits. -/
theorem nanDrawsAreTheQuietNaNs : Obligations.NanDrawsAreTheQuietNaNs := by
  refine fun v => ⟨?_, fun h => ⟨drawOf v, quietNaN_drawOf h⟩⟩
  rintro ⟨d, rfl⟩
  exact quietNaN_isQuiet d

end Sys2Proof.Proofs

/-! Binary32 patterns by sign and magnitude: the 31 bits of exponent and fraction of a pattern
decide its class and its size (`spec/10_state.md` R23). -/

namespace Sys2Proof.Machine

open Claim

/-! ### Sign and magnitude of a pattern -/

/-- The 31 bits of exponent and fraction, as a number. -/
def magOf (v : Word) : Nat := v.toNat % 2 ^ 31

theorem magOf_lt (v : Word) : magOf v < 2 ^ 31 := Nat.mod_lt _ (by decide)

theorem expOf_eq (v : Word) : expOf v = magOf v / 2 ^ 23 := by
  rw [expOf, magOf, BitVec.extractLsb'_toNat, Nat.shiftRight_eq_div_pow]
  omega

theorem fracOf_eq (v : Word) : fracOf v = magOf v % 2 ^ 23 := by
  rw [fracOf, magOf, BitVec.extractLsb'_toNat, Nat.shiftRight_zero]
  omega

theorem signOf_eq (v : Word) : signOf v = decide (2 ^ 31 ≤ v.toNat) :=
  BitVec.msb_eq_decide v

theorem isNaN_iff {v : Word} : isNaN v = true ↔ infMag < magOf v := by
  have := magOf_lt v
  simp only [isNaN, expOf_eq, fracOf_eq, infMag, Bool.and_eq_true, beq_iff_eq, bne_iff_ne]
  omega

theorem isInf_iff {v : Word} : isInf v = true ↔ magOf v = infMag := by
  have := magOf_lt v
  simp only [isInf, expOf_eq, fracOf_eq, infMag, Bool.and_eq_true, beq_iff_eq]
  omega

theorem isZero_iff {v : Word} : isZero v = true ↔ magOf v = 0 := by
  simp only [isZero, expOf_eq, fracOf_eq, Bool.and_eq_true, beq_iff_eq]
  omega

theorem finiteBits_iff {v : Word} : FiniteBits v ↔ magOf v < infMag := by
  have hexp : FiniteBits v ↔ expOf v ≠ 255 := not_congr BitVec.toNat_inj.symm
  have := magOf_lt v
  rw [hexp, expOf_eq, infMag]
  omega

theorem isNaN_of_finite {v : Word} (h : FiniteBits v) : isNaN v = false := by
  have := finiteBits_iff.1 h
  rw [← Bool.not_eq_true, isNaN_iff]
  omega

theorem isInf_of_finite {v : Word} (h : FiniteBits v) : isInf v = false := by
  have := finiteBits_iff.1 h
  rw [← Bool.not_eq_true, isInf_iff]
  omega

theorem isInf_of_isZero {v : Word} (h : isZero v = true) : isInf v = false := by
  rw [← Bool.not_eq_true, isInf_iff, isZero_iff.1 h]
  decide

/-! ### `pack` -/

section Pack
variable {mag : Nat}

theorem toNat_pack (neg : Bool) (h : mag < 2 ^ 31) :
    (pack neg mag).toNat = (if neg then 2 ^ 31 else 0) + mag := by
  rw [pack, BitVec.toNat_ofNat]
  cases neg <;> simp only [if_true, if_false, Bool.false_eq_true] <;> omega

theorem signOf_pack (neg : Bool) (h : mag < 2 ^ 31) : signOf (pack neg mag) = neg := by
  rw [signOf_eq, toNat_pack neg h]
  cases neg with
  | false => simpa using h
  | true => simp

theorem magOf_pack (neg : Bool) (h : mag < 2 ^ 31) : magOf (pack neg mag) = mag := by
  rw [magOf, toNat_pack neg h]
  cases neg <;> simp only [if_true, if_false, Bool.false_eq_true] <;> omega

end Pack

theorem pack_infMag (p : Bool) : pack p infMag = infinity p := by cases p <;> rfl

theorem pack_zero (p : Bool) : pack p 0 = zero p := by cases p <;> rfl

/-! ### The infinities and the zeros -/

section Constants
variable (p : Bool)

@[simp] theorem isNaN_infinity : isNaN (infinity p) = false := by cases p <;> rfl
@[simp] theorem isInf_infinity : isInf (infinity p) = true := by cases p <;> rfl
@[simp] theorem isZero_infinity : isZero (infinity p) = false := by cases p <;> rfl
@[simp] theorem signOf_infinity : signOf (infinity p) = p := by cases p <;> rfl
@[simp] theorem isNaN_zero : isNaN (zero p) = false := by cases p <;> rfl
@[simp] theorem isInf_zero : isInf (zero p) = false := by cases p <;> rfl
@[simp] theorem isZero_zero : isZero (zero p) = true := by cases p <;> rfl
@[simp] theorem signOf_zero : signOf (zero p) = p := by cases p <;> rfl
@[simp] theorem units_zero : units (zero p) = 0 := by cases p <;> rfl

end Constants

/-! ### Negation -/

section Negation
variable (v : Word)

@[simp] theorem signOf_fneg32 : signOf (fneg32 v) = !signOf v := by
  simp [signOf, fneg32]

@[simp] theorem magOf_fneg32 : magOf (fneg32 v) = magOf v := by
  rw [magOf, fneg32, BitVec.toNat_xor, Nat.xor_mod_two_pow]
  exact Nat.xor_zero _

@[simp] theorem units_fneg32 : units (fneg32 v) = units v := by
  simp [units, expOf_eq, fracOf_eq]

@[simp] theorem signedUnits_fneg32 : signedUnits (fneg32 v) = -signedUnits v := by
  simp only [signedUnits, signOf_fneg32, units_fneg32]
  cases signOf v <;> simp

theorem finiteBits_fneg32 {v : Word} : FiniteBits (fneg32 v) ↔ FiniteBits v := by
  simp only [finiteBits_iff, magOf_fneg32]

end Negation

/-! ### `roundMag` -/

/-- Rounding never goes beyond the infinity. -/
theorem roundMag_le (num den : Nat) : roundMag num den ≤ infMag := Nat.min_le_right _ _

theorem roundMag_lt (num den : Nat) : roundMag num den < 2 ^ 31 :=
  (roundMag_le num den).trans_lt (by decide)

@[simp] theorem roundMag_zero (den : Nat) : roundMag 0 den = 0 := by
  simp [roundMag]

/-! ### The primitives on classes of operands (R151)

One equation for each class of operands a table row of R151 names. -/

section Primitives
variable {a b : Word}

theorem fadd32_of_isNaN (h : isNaN a = true ∨ isNaN b = true) : fadd32 a b = .nan := by
  simp [fadd32, h]

theorem fsub32_of_isNaN (h : isNaN a = true ∨ isNaN b = true) : fsub32 a b = .nan := by
  unfold fsub32
  split
  · rfl
  next hb => exact fadd32_of_isNaN (.inl (h.resolve_right hb))

theorem fsub32_of_not_isNaN (h : isNaN b = false) : fsub32 a b = fadd32 a (fneg32 b) := by
  simp [fsub32, h]

theorem fmul32_of_isNaN (h : isNaN a = true ∨ isNaN b = true) : fmul32 a b = .nan := by
  simp [fmul32, h]

theorem fdiv32_of_isNaN (h : isNaN a = true ∨ isNaN b = true) : fdiv32 a b = .nan := by
  simp [fdiv32, h]

theorem fmod32_of_isNaN (h : isNaN a = true ∨ isNaN b = true) : fmod32 a b = .nan := by
  simp [fmod32, h]

theorem fadd32_of_finite (ha : FiniteBits a) (hb : FiniteBits b) :
    fadd32 a b =
      if signedUnits a + signedUnits b = 0 then .num (zero (signOf a && signOf b))
      else .num (pack (decide (signedUnits a + signedUnits b < 0))
        (roundMag (signedUnits a + signedUnits b).natAbs 1)) := by
  simp [fadd32, isNaN_of_finite, isInf_of_finite, ha, hb, pack_zero]

theorem fmul32_of_finite (ha : FiniteBits a) (hb : FiniteBits b) :
    fmul32 a b =
      .num (pack (signOf a != signOf b) (roundMag (units a * units b) (2 ^ 149))) := by
  simp [fmul32, isNaN_of_finite, isInf_of_finite, ha, hb]

/-- A product with an infinity is the infinity of the XOR of the signs, unless a zero or a NaN
takes part. -/
theorem fmul32_of_isInf (ha : isNaN a = false) (hb : isNaN b = false)
    (hinf : isInf a = true ∨ isInf b = true) (ha0 : isZero a = false) (hb0 : isZero b = false) :
    fmul32 a b = .num (infinity (signOf a != signOf b)) := by
  simp [fmul32, ha, hb, hinf, ha0, hb0, pack_infMag]

theorem fmul32_of_isZero_isInf (hzero : isZero a = true ∨ isZero b = true)
    (hinf : isInf a = true ∨ isInf b = true) : fmul32 a b = .nan := by
  simp [fmul32, hzero, hinf]

theorem fdiv32_of_finite (ha : FiniteBits a) (hb : FiniteBits b) (hb0 : isZero b = false) :
    fdiv32 a b =
      .num (pack (signOf a != signOf b) (roundMag (units a * 2 ^ 149) (units b))) := by
  simp [fdiv32, isNaN_of_finite, isInf_of_finite, ha, hb, hb0]

theorem fmod32_of_finite (ha : FiniteBits a) (hb : FiniteBits b) (hb0 : isZero b = false) :
    fmod32 a b = .num (pack (signOf a) (roundMag (units a % units b) 1)) := by
  simp [fmod32, isNaN_of_finite, isInf_of_finite, ha, hb, hb0]

/-- Every quotient that is no NaN is some magnitude under the XOR of the signs. -/
theorem fdiv32_eq_num {v : Word} (h : fdiv32 a b = .num v) :
    ∃ mag < 2 ^ 31, v = pack (signOf a != signOf b) mag := by
  have hinf : infMag < 2 ^ 31 := by decide
  unfold fdiv32 at h
  simp only at h
  split_ifs at h <;> injection h with h
  · exact ⟨infMag, hinf, h.symm⟩
  · exact ⟨0, by decide, h.symm⟩
  · exact ⟨infMag, hinf, h.symm⟩
  · exact ⟨_, roundMag_lt _ _, h.symm⟩

/-- Every product of no NaNs, and of no zero with an infinity, is some magnitude under the XOR of
the signs. -/
theorem fmul32_eq_num (ha : isNaN a = false) (hb : isNaN b = false)
    (hzi : ¬ (isZero a = true ∧ isInf b = true)) (hiz : ¬ (isInf a = true ∧ isZero b = true)) :
    ∃ mag < 2 ^ 31, fmul32 a b = .num (pack (signOf a != signOf b) mag) := by
  by_cases hinf : isInf a = true ∨ isInf b = true
  · refine ⟨infMag, by decide, ?_⟩
    have hzero : ¬ (isZero a = true ∨ isZero b = true) := by
      rintro (ha0 | hb0) <;> rcases hinf with ha8 | hb8
      · simp [isInf_of_isZero ha0] at ha8
      · exact hzi ⟨ha0, hb8⟩
      · exact hiz ⟨ha8, hb0⟩
      · simp [isInf_of_isZero hb0] at hb8
    simp [fmul32, ha, hb, hinf, hzero]
  · exact ⟨_, roundMag_lt _ _, by simp only [fmul32, ha, hb, Bool.or_eq_true, hinf]; rfl⟩

end Primitives

end Sys2Proof.Machine

namespace Sys2Proof.Proofs

open Machine Claim

/-- Settles O42, each row of R151 from the equation of the primitive for its class of operands. -/
theorem floatSpecialCases : Obligations.FloatSpecialCases := by
  refine ⟨fun a b h => ⟨fadd32_of_isNaN h, fsub32_of_isNaN h, fmul32_of_isNaN h,
    fdiv32_of_isNaN h, fmod32_of_isNaN h⟩, fun p q hpq => ?addOpposite, fun p => ?addSame,
    fun p x hx => ?addFinite, fun x hx => ?addNegation, rfl, rfl,
    fun a b hb => fsub32_of_not_isNaN hb, fun p q => ?mulZero, fun a b ha hb hzi hiz => ?mulSign,
    fun p x hx hx0 => ?mulInf, fun a b v h => ?divSign, fun p x hx hx0 => ?divByZero,
    fun p q => ?divNaN, fun p x hx => ?divInf, fun p x hx hx0 => ?divZero,
    fun p b => ?modOfInf, fun p a => ?modByZero, fun p a ha => ?modByInf,
    fun p b hb hb0 => ?modZero⟩
  case addOpposite => simp [fadd32, hpq]
  case addSame => simp [fadd32]
  case addFinite => simp [fadd32, isNaN_of_finite hx, isInf_of_finite hx]
  case addNegation =>
    have hneg := fadd32_of_finite hx (finiteBits_fneg32.2 hx)
    rw [signedUnits_fneg32, Int.add_right_neg, if_pos rfl, signOf_fneg32, Bool.and_not_self] at hneg
    exact hneg
  case mulZero => exact ⟨fmul32_of_isZero_isInf (by simp) (by simp),
    fmul32_of_isZero_isInf (by simp) (by simp)⟩
  case mulSign =>
    obtain ⟨mag, hmag, hmul⟩ := fmul32_eq_num ha hb hzi hiz
    exact ⟨_, hmul, signOf_pack _ hmag⟩
  case mulInf =>
    have hleft := fmul32_of_isInf (a := infinity p) (b := x) (by simp) hx (by simp) (by simp) hx0
    have hright := fmul32_of_isInf (a := x) (b := infinity p) hx (by simp) (by simp) hx0 (by simp)
    rw [signOf_infinity] at hleft hright
    exact ⟨hleft, hright⟩
  case divSign =>
    obtain ⟨mag, hmag, rfl⟩ := fdiv32_eq_num h
    exact signOf_pack _ hmag
  case divByZero =>
    change _ = FloatResult.num (infinity (signOf x != p))
    simp [fdiv32, isNaN_of_finite hx, isInf_of_finite hx, hx0, pack_infMag]
  case divNaN => simp [fdiv32]
  case divInf =>
    change _ = FloatResult.num (zero (signOf x != p)) ∧
      _ = FloatResult.num (infinity (p != signOf x))
    simp [fdiv32, isNaN_of_finite hx, isInf_of_finite hx, pack_infMag, pack_zero]
  case divZero =>
    change _ = FloatResult.num (zero (p != signOf x))
    simp [fdiv32, isNaN_of_finite hx, isInf_of_finite hx, hx0, pack_zero]
  case modOfInf => simp [fmod32]
  case modByZero => simp [fmod32]
  case modByInf => simp [fmod32, isNaN_of_finite ha, isInf_of_finite ha]
  case modZero => simp [fmod32, hb, hb0, pack_zero]

end Sys2Proof.Proofs

/-! Correct rounding (`spec/42_arithmetic.md` R151). The magnitudes, as numbers of units of 2^-149,
rise strictly with their pattern, so the nearest one to a value is one of the two patterns around
it. -/

namespace Sys2Proof.Machine

open Claim

/-! ### The number of units of a magnitude -/

/-- The number of units of 2^-149 of a magnitude, by its exponent field and its fraction. -/
def magUnits (n : Nat) : Nat :=
  if n / 2 ^ 23 = 0 then n % 2 ^ 23 else (2 ^ 23 + n % 2 ^ 23) * 2 ^ (n / 2 ^ 23 - 1)

theorem units_eq (v : Word) : units v = magUnits (magOf v) := by
  rw [units, expOf_eq, fracOf_eq, magUnits]

/-- A 24-bit significand `q` at the scale `2 ^ k`, the next power of two included. -/
theorem magUnits_significand {k q : Nat} (hq : q ≤ 2 ^ 24) (hk : k = 0 ∨ 2 ^ 23 ≤ q) :
    magUnits (k * 2 ^ 23 + q) = q * 2 ^ k := by
  unfold magUnits
  rcases lt_or_ge q (2 ^ 23) with hsub | hnorm
  · have hk : k = 0 := by omega
    subst hk
    rw [if_pos (by omega)]
    omega
  · rcases hq.eq_or_lt with rfl | hlt
    · have hdiv : (k * 2 ^ 23 + 2 ^ 24) / 2 ^ 23 = k + 2 := by omega
      have hmod : (k * 2 ^ 23 + 2 ^ 24) % 2 ^ 23 = 0 := by omega
      rw [hdiv, hmod, if_neg (by omega), show k + 2 - 1 = k + 1 by omega, pow_succ]
      omega
    · have hdiv : (k * 2 ^ 23 + q) / 2 ^ 23 = k + 1 := by omega
      have hmod : 2 ^ 23 + (k * 2 ^ 23 + q) % 2 ^ 23 = q := by omega
      rw [hdiv, hmod, if_neg (by omega), Nat.add_sub_cancel]

/-- The neighbour of such a magnitude is one significand up, whether or not the exponent changes. -/
theorem magUnits_succ_significand {k q : Nat} (hq : q < 2 ^ 24) (hk : k = 0 ∨ 2 ^ 23 ≤ q) :
    magUnits (k * 2 ^ 23 + q + 1) = (q + 1) * 2 ^ k := by
  rw [add_assoc]
  exact magUnits_significand (Nat.succ_le_of_lt hq) (hk.imp id fun h => h.trans (Nat.le_succ q))

/-- Every magnitude is a significand at a scale, normalised above the least scale. -/
theorem exists_significand (n : Nat) :
    ∃ k q, n = k * 2 ^ 23 + q ∧ q < 2 ^ 24 ∧ (k = 0 ∨ 2 ^ 23 ≤ q) := by
  by_cases hn : n < 2 ^ 23
  · exact ⟨0, n, by omega, by omega, .inl rfl⟩
  · exact ⟨n / 2 ^ 23 - 1, 2 ^ 23 + n % 2 ^ 23, by omega, by omega, .inr (by omega)⟩

theorem magUnits_strictMono : StrictMono magUnits := by
  refine strictMono_nat_of_lt_succ fun n => ?_
  obtain ⟨k, q, rfl, hq, hk⟩ := exists_significand n
  rw [magUnits_significand hq.le hk, magUnits_succ_significand hq hk]
  exact Nat.mul_lt_mul_of_pos_right (Nat.lt_succ_self q) (Nat.two_pow_pos k)

/-- Whatever has at most 24 significant bits is the number of units of some magnitude. -/
theorem exists_magUnits_eq (j : Nat) {c : Nat} (hc : c < 2 ^ 24) :
    ∃ n, magUnits n = c * 2 ^ j := by
  induction j generalizing c with
  | zero => exact ⟨0 * 2 ^ 23 + c, magUnits_significand hc.le (.inl rfl)⟩
  | succ j ih =>
    rcases lt_or_ge c (2 ^ 23) with hsmall | hnorm
    · obtain ⟨n, hn⟩ := ih (c := 2 * c) (by omega)
      exact ⟨n, by rw [hn]; ring⟩
    · exact ⟨_, magUnits_significand hc.le (.inr hnorm)⟩

theorem cast_magUnits_infMag : (magUnits infMag : ℚ) = 2 ^ 24 * 2 ^ 253 := by
  have hinf : magUnits infMag = 2 ^ 24 * 2 ^ 253 :=
    magUnits_significand (k := 253) (q := 2 ^ 24) le_rfl (.inr (by decide))
  rw [hinf]
  norm_num

theorem cast_magUnits_maxFinite : (magUnits (infMag - 1) : ℚ) = (2 ^ 24 - 1) * 2 ^ 253 := by
  have hmax : magUnits (infMag - 1) = (2 ^ 24 - 1) * 2 ^ 253 :=
    magUnits_significand (k := 253) (q := 2 ^ 24 - 1) (by decide) (.inr (by decide))
  rw [hmax]
  norm_num

theorem cast_magUnits_mono {m n : Nat} (h : m ≤ n) : (magUnits m : ℚ) ≤ magUnits n :=
  mod_cast magUnits_strictMono.monotone h

/-! ### The nearer of two neighbours -/

/-- The nearer to `y` of the magnitudes `n` and `n + 1`, the even one on a tie. -/
def nearer (y : ℚ) (n : Nat) : Nat :=
  if 2 * y < magUnits n + magUnits (n + 1) then n
  else if (magUnits n + magUnits (n + 1) : ℚ) < 2 * y then n + 1
  else n + n % 2

/-- No magnitude is nearer to `y` units than `p`, and `p` is even if another is as near. -/
def NearestMag (y : ℚ) (p : Nat) : Prop :=
  ∀ n, |(magUnits p : ℚ) - y| ≤ |(magUnits n : ℚ) - y| ∧
    (|(magUnits n : ℚ) - y| = |(magUnits p : ℚ) - y| → magUnits n ≠ magUnits p → p % 2 = 0)

theorem nearer_cases (y : ℚ) (n : Nat) : nearer y n = n ∨ nearer y n = n + 1 := by
  unfold nearer
  split_ifs <;> omega

/-- The distance of `y` to any magnitude, when `y` lies between those of `P` and `P + 1`. -/
theorem abs_magUnits_sub {y : ℚ} {P : Nat} (hlo : (magUnits P : ℚ) ≤ y)
    (hhi : y < magUnits (P + 1)) (n : Nat) :
    ((magUnits n : ℚ) ≤ magUnits P ∧ |(magUnits n : ℚ) - y| = y - magUnits n) ∨
      ((magUnits (P + 1) : ℚ) ≤ magUnits n ∧ |(magUnits n : ℚ) - y| = magUnits n - y) := by
  rcases Nat.lt_or_ge P n with hgt | hle
  · have hU := cast_magUnits_mono (Nat.succ_le_of_lt hgt)
    exact .inr ⟨hU, abs_of_nonneg (by linarith)⟩
  · have hU := cast_magUnits_mono hle
    exact .inl ⟨hU, by rw [abs_sub_comm, abs_of_nonneg (by linarith)]⟩

theorem nearestMag_nearer {y : ℚ} {P : Nat} (hlo : (magUnits P : ℚ) ≤ y)
    (hhi : y < magUnits (P + 1)) : NearestMag y (nearer y P) := by
  intro n
  have hP : |(magUnits P : ℚ) - y| = y - magUnits P := by
    rw [abs_sub_comm, abs_of_nonneg (sub_nonneg.2 hlo)]
  have hP1 : |(magUnits (P + 1) : ℚ) - y| = magUnits (P + 1) - y := abs_of_pos (sub_pos.2 hhi)
  have hn := abs_magUnits_sub hlo hhi n
  unfold nearer
  split_ifs with hbelow habove
  · rw [hP]
    rcases hn with ⟨hU, hd⟩ | ⟨hU, hd⟩ <;> rw [hd]
    · exact ⟨by linarith, fun heq hne => absurd (Nat.cast_injective (R := ℚ) (by linarith)) hne⟩
    · exact ⟨by linarith, fun heq _ => by linarith⟩
  · rw [hP1]
    rcases hn with ⟨hU, hd⟩ | ⟨hU, hd⟩ <;> rw [hd]
    · exact ⟨by linarith, fun heq _ => by linarith⟩
    · exact ⟨by linarith, fun heq hne => absurd (Nat.cast_injective (R := ℚ) (by linarith)) hne⟩
  · have htie : |(magUnits (P + P % 2) : ℚ) - y| = y - magUnits P := by
      rcases Nat.mod_two_eq_zero_or_one P with hpar | hpar <;> rw [hpar]
      · exact hP
      · linarith
    refine ⟨?_, fun _ _ => by omega⟩
    rcases hn with ⟨hU, hd⟩ | ⟨hU, hd⟩ <;> linarith

/-! ### What `roundMag` answers -/

/-- Half a unit of the last place above the greatest finite number, in units: R151 rounds to the
infinity from here up. -/
def overflowUnits : ℚ := (2 ^ 25 - 1) * 2 ^ 252

/-- The scale `roundMag` picks for a value with integer part `N` leaves 24 significant bits of
it. -/
theorem significand_of_scale (N : Nat) :
    N / 2 ^ (N.log2 - 23) < 2 ^ 24 ∧ (N.log2 - 23 = 0 ∨ 2 ^ 23 ≤ N / 2 ^ (N.log2 - 23)) := by
  have hlt : N < 2 ^ (N.log2 + 1) := Nat.lt_log2_self
  rcases Nat.lt_or_ge 23 N.log2 with hbig | hsmall
  · obtain ⟨k, hk⟩ := Nat.exists_eq_add_of_lt hbig
    have hN : N ≠ 0 := fun h => by simp [h] at hbig
    have hle : 2 ^ N.log2 ≤ N := Nat.log2_self_le hN
    rw [show N.log2 - 23 = k + 1 by omega, Nat.div_lt_iff_lt_mul (Nat.two_pow_pos _),
      Nat.le_div_iff_mul_le (Nat.two_pow_pos _), ← pow_add, ← pow_add]
    rw [hk] at hlt hle
    exact ⟨by convert hlt using 2; omega, .inr (by convert hle using 2; omega)⟩
  · rw [Nat.sub_eq_zero_of_le hsmall, pow_zero, Nat.div_one]
    exact ⟨hlt.trans_le (Nat.pow_le_pow_right two_pos (by omega)), .inl rfl⟩

section Significand
variable {num den k q r : Nat}

/-- The value lies between the magnitudes of its significand and of the next one. -/
theorem significand_bounds (hden : 0 < den) (hq : q < 2 ^ 24) (hk : k = 0 ∨ 2 ^ 23 ≤ q)
    (hsplit : den * 2 ^ k * q + r = num) (hr : r < den * 2 ^ k) :
    (magUnits (k * 2 ^ 23 + q) : ℚ) ≤ num / den ∧
      (num / den : ℚ) < magUnits (k * 2 ^ 23 + q + 1) := by
  have hd : (0 : ℚ) < den := mod_cast hden
  rw [magUnits_significand hq.le hk, magUnits_succ_significand hq hk, le_div_iff₀ hd,
    div_lt_iff₀ hd]
  norm_cast
  constructor <;> linarith

/-- Which neighbour is nearer shows in the remainder `r` that the significand leaves. -/
theorem nearer_significand (hden : 0 < den) (hq : q < 2 ^ 24) (hk : k = 0 ∨ 2 ^ 23 ≤ q)
    (hsplit : den * 2 ^ k * q + r = num) :
    nearer (num / den) (k * 2 ^ 23 + q) = k * 2 ^ 23 +
      if 2 * r < den * 2 ^ k then q else if den * 2 ^ k < 2 * r then q + 1 else q + q % 2 := by
  have hd : (0 : ℚ) < den := mod_cast hden
  have hnum : (num : ℚ) = den * 2 ^ k * q + r := mod_cast hsplit.symm
  have hU : (magUnits (k * 2 ^ 23 + q) : ℚ) = q * 2 ^ k := mod_cast magUnits_significand hq.le hk
  have hU1 : (magUnits (k * 2 ^ 23 + q + 1) : ℚ) = (q + 1) * 2 ^ k :=
    mod_cast magUnits_succ_significand hq hk
  have hy : 2 * (num / den : ℚ) =
      (q * 2 ^ k + (q + 1) * 2 ^ k) + (2 * r - den * 2 ^ k) / den := by
    rw [hnum]; field_simp; ring
  have hbelow : 2 * (num / den : ℚ) < q * 2 ^ k + (q + 1) * 2 ^ k ↔ 2 * r < den * 2 ^ k := by
    rw [hy, add_lt_iff_neg_left, div_lt_iff₀ hd, zero_mul, sub_neg]
    exact mod_cast Iff.rfl
  have habove : q * 2 ^ k + (q + 1) * 2 ^ k < 2 * (num / den : ℚ) ↔ den * 2 ^ k < 2 * r := by
    rw [hy, lt_add_iff_pos_right, lt_div_iff₀ hd, zero_mul, sub_pos]
    exact mod_cast Iff.rfl
  simp only [nearer, hU, hU1, hbelow, habove]
  split_ifs <;> omega

end Significand

/-- `roundMag` is the nearer of the two magnitudes around the value, cut at the infinity. -/
theorem roundMag_eq_nearer (num : Nat) {den : Nat} (hden : 0 < den) :
    ∃ P, (magUnits P : ℚ) ≤ num / den ∧ (num / den : ℚ) < magUnits (P + 1) ∧
      roundMag num den = min (nearer (num / den) P) infMag := by
  obtain ⟨hq, hk⟩ := significand_of_scale (num / den)
  rw [Nat.div_div_eq_div_mul] at hq hk
  have hsplit := Nat.div_add_mod num (den * 2 ^ ((num / den).log2 - 23))
  have hr := Nat.mod_lt num (Nat.mul_pos hden (Nat.two_pow_pos ((num / den).log2 - 23)))
  obtain ⟨hlo, hhi⟩ := significand_bounds hden hq hk hsplit hr
  exact ⟨_, hlo, hhi, congrArg (min · infMag) (nearer_significand hden hq hk hsplit).symm⟩

/-- Between the greatest finite magnitude and the infinity the threshold decides which is nearer. -/
theorem nearer_lt_infMag_iff {y : ℚ} {P : Nat} (hlo : (magUnits P : ℚ) ≤ y)
    (hhi : y < magUnits (P + 1)) : nearer y P < infMag ↔ y < overflowUnits := by
  rcases lt_trichotomy (P + 1) infMag with hlt | heq | hgt
  · have hnear : nearer y P < infMag := by
      rcases nearer_cases y P with h | h <;> omega
    have hy := hhi.trans_le (cast_magUnits_mono (Nat.le_sub_one_of_lt hlt))
    exact iff_of_true hnear (hy.trans (by rw [cast_magUnits_maxFinite, overflowUnits]; norm_num))
  · obtain rfl : P = infMag - 1 := by omega
    have hsum : (magUnits (infMag - 1) + magUnits (infMag - 1 + 1) : ℚ) = 2 * overflowUnits := by
      rw [heq, cast_magUnits_maxFinite, cast_magUnits_infMag, overflowUnits]; norm_num
    rw [nearer, hsum]
    split_ifs with hbelow habove
    · exact iff_of_true (by decide) (by linarith)
    · exact iff_of_false (by decide) (by linarith)
    · exact iff_of_false (by decide) (by linarith)
  · have hnear : ¬ nearer y P < infMag := by
      rcases nearer_cases y P with h | h <;> omega
    have hy := (cast_magUnits_mono (Nat.le_of_lt_succ hgt)).trans hlo
    have hover : overflowUnits ≤ magUnits infMag := by
      rw [cast_magUnits_infMag, overflowUnits]; norm_num
    exact iff_of_false hnear (not_lt.2 (hover.trans hy))

/-- Rounding below the overflow threshold gives a finite magnitude nearest to the value. -/
theorem roundMag_nearest {num den : Nat} (hden : 0 < den)
    (h : (num / den : ℚ) < overflowUnits) :
    roundMag num den < infMag ∧ NearestMag (num / den) (roundMag num den) := by
  obtain ⟨P, hlo, hhi, heq⟩ := roundMag_eq_nearer num hden
  have hlt := (nearer_lt_infMag_iff hlo hhi).2 h
  rw [heq, Nat.min_eq_left hlt.le]
  exact ⟨hlt, nearestMag_nearer hlo hhi⟩

theorem roundMag_overflow {num den : Nat} (hden : 0 < den)
    (h : overflowUnits ≤ (num / den : ℚ)) : roundMag num den = infMag := by
  obtain ⟨P, hlo, hhi, heq⟩ := roundMag_eq_nearer num hden
  have hge : ¬ nearer (num / den) P < infMag := fun hlt =>
    absurd ((nearer_lt_infMag_iff hlo hhi).1 hlt) (not_lt.2 h)
  rw [heq, Nat.min_eq_right (Nat.le_of_not_lt hge)]

/-- A magnitude is its own rounding. -/
theorem roundMag_magUnits {n : Nat} (hn : n < infMag) : roundMag (magUnits n) 1 = n := by
  have hbelow : ((magUnits n : ℕ) / (1 : ℕ) : ℚ) < overflowUnits := by
    have hmax := cast_magUnits_mono (Nat.le_sub_one_of_lt hn)
    rw [cast_magUnits_maxFinite] at hmax
    rw [Nat.cast_one, div_one, overflowUnits]
    linarith
  obtain ⟨hdist, _⟩ := (roundMag_nearest Nat.one_pos hbelow).2 n
  rw [Nat.cast_one, div_one, sub_self, abs_zero, abs_nonpos_iff, sub_eq_zero] at hdist
  exact magUnits_strictMono.injective (mod_cast hdist)

/-! ### Values of patterns -/

/-- The sign factor of a sign bit. -/
def signFactor (neg : Bool) : ℚ := if neg then -1 else 1

theorem signFactor_mul_self (p : Bool) : signFactor p * signFactor p = 1 := by
  cases p <;> norm_num [signFactor]

theorem abs_signFactor (p : Bool) : |signFactor p| = 1 := by
  cases p <;> norm_num [signFactor]

theorem signFactor_bne (p q : Bool) : signFactor (p != q) = signFactor p * signFactor q := by
  cases p <;> cases q <;> norm_num [signFactor]

theorem signFactor_not (p : Bool) : signFactor (!p) = -signFactor p := by
  cases p <;> norm_num [signFactor]

/-- The value of a pattern is its units of 2^-149 under its sign. -/
theorem realOf_eq (v : Word) : realOf v = signFactor (signOf v) * units v / 2 ^ 149 := by
  have hexp : (v.extractLsb' 23 8).toNat = expOf v := rfl
  have hfrac : (v.extractLsb' 0 23).toNat = fracOf v := rfl
  have hsign : v.getLsbD 31 = signOf v := rfl
  unfold realOf units
  simp only [hexp, hfrac, hsign]
  change signFactor (signOf v) * _ * _ = _
  rw [mul_assoc, mul_div_assoc]
  congr 1
  cases h : expOf v with
  | zero => norm_num [zpow_neg, div_eq_mul_inv]
  | succ e =>
    have hmax : max ((e + 1 : ℕ) : ℤ) 1 - 150 = e - 149 := by omega
    rw [hmax, zpow_sub₀ two_ne_zero, zpow_natCast, if_neg e.succ_ne_zero, if_neg e.succ_ne_zero]
    push_cast
    rw [mul_div_assoc]
    rfl

theorem realOf_eq_signedUnits (v : Word) : realOf v = signedUnits v / 2 ^ 149 := by
  rw [realOf_eq, signedUnits]
  cases signOf v <;> simp [signFactor]

theorem realOf_fneg32 (v : Word) : realOf (fneg32 v) = -realOf v := by
  simp [realOf_eq_signedUnits, neg_div]

theorem units_pos {v : Word} (h : realOf v ≠ 0) : 0 < units v :=
  Nat.pos_of_ne_zero fun hzero => h (by rw [realOf_eq, hzero, Nat.cast_zero, mul_zero, zero_div])

theorem isZero_of_realOf_ne_zero {v : Word} (h : realOf v ≠ 0) : isZero v = false := by
  rw [← Bool.not_eq_true, isZero_iff]
  intro hzero
  have hunits := units_pos h
  rw [units_eq, hzero] at hunits
  exact hunits.ne rfl

/-- The distance of a pattern's value to `y` units under the sign `neg`. -/
theorem abs_realOf_sub {neg : Bool} {y : ℚ} (hy : 0 ≤ y) (w : Word) :
    |realOf w - signFactor neg * y / 2 ^ 149| =
      (if signOf w = neg then |(magUnits (magOf w) : ℚ) - y| else magUnits (magOf w) + y)
        / 2 ^ 149 := by
  rw [realOf_eq, units_eq]
  split_ifs with hsign
  · rw [hsign, ← sub_div, ← mul_sub, abs_div, abs_mul, abs_signFactor, one_mul]
    norm_num
  · have hneg : signFactor (signOf w) = -signFactor neg := by
      rw [← signFactor_not, Bool.eq_not.2 hsign]
    have hsum : (0 : ℚ) ≤ magUnits (magOf w) + y := add_nonneg (Nat.cast_nonneg _) hy
    rw [hneg, ← sub_div, neg_mul, ← neg_add', ← mul_add, abs_div, abs_neg, abs_mul,
      abs_signFactor, one_mul, abs_of_nonneg hsum]
    norm_num

/-- A nearest magnitude under the sign of the value is nearest among all finite patterns: one of
the other sign is no nearer than the zero of the same sign. -/
theorem nearest_pack {neg : Bool} {y : ℚ} {p : Nat} (hy : 0 ≤ y) (hp : p < infMag)
    (hnear : NearestMag y p) (w : Word) :
    |realOf (pack neg p) - signFactor neg * y / 2 ^ 149| ≤
        |realOf w - signFactor neg * y / 2 ^ 149| ∧
      (|realOf w - signFactor neg * y / 2 ^ 149| =
          |realOf (pack neg p) - signFactor neg * y / 2 ^ 149| →
        realOf w ≠ realOf (pack neg p) → (pack neg p).toNat % 2 = 0) := by
  have hp31 : p < 2 ^ 31 := hp.trans (by decide)
  have hpar : (pack neg p).toNat % 2 = p % 2 := by
    rw [toNat_pack neg hp31]
    cases neg <;> simp only [if_true, if_false, Bool.false_eq_true] <;> omega
  have hscale : (0 : ℚ) < 2 ^ 149 := by positivity
  rw [abs_realOf_sub hy, abs_realOf_sub hy, signOf_pack neg hp31, magOf_pack neg hp31, if_pos rfl,
    hpar, div_le_div_iff_of_pos_right hscale, div_left_inj' hscale.ne']
  split_ifs with hsign
  · obtain ⟨hle, heven⟩ := hnear (magOf w)
    refine ⟨hle, fun heq hne => heven heq fun hU => hne ?_⟩
    rw [realOf_eq, realOf_eq, units_eq, units_eq, signOf_pack neg hp31, magOf_pack neg hp31, hU,
      hsign]
  · obtain ⟨hle, heven⟩ := hnear 0
    have hzero : |((magUnits 0 : ℕ) : ℚ) - y| = y := by
      rw [show magUnits 0 = 0 from rfl, Nat.cast_zero, zero_sub, abs_neg, abs_of_nonneg hy]
    rw [hzero] at hle heven
    have hU : (0 : ℚ) ≤ magUnits (magOf w) := Nat.cast_nonneg _
    refine ⟨by linarith, fun heq hne => heven (by linarith) fun hU0 => hne ?_⟩
    have hw : (magUnits (magOf w) : ℚ) = 0 := by linarith
    rw [realOf_eq, realOf_eq, units_eq, units_eq, hw, magOf_pack neg hp31, ← hU0,
      show magUnits 0 = 0 from rfl, Nat.cast_zero, mul_zero, mul_zero]

/-- `roundMag` under a sign rounds correctly, ties to even. -/
theorem roundsTo_pack {neg : Bool} {num den : Nat} (hden : 0 < den) {x : ℚ}
    (hx : x = signFactor neg * (num / den) / 2 ^ 149) :
    RoundsTo x (pack neg (roundMag num den)) := by
  have hy : (0 : ℚ) ≤ num / den := by positivity
  have hscale : (0 : ℚ) < 2 ^ 149 := by positivity
  have habs : |x| = (num / den) / 2 ^ 149 := by
    rw [hx, abs_div, abs_mul, abs_signFactor, one_mul, abs_of_nonneg hy, abs_of_pos hscale]
  have hthreshold : (2 ^ 128 - 2 ^ 103 : ℚ) = overflowUnits / 2 ^ 149 := by
    norm_num [overflowUnits]
  have hiff : 2 ^ 128 - 2 ^ 103 ≤ |x| ↔ overflowUnits ≤ (num / den : ℚ) := by
    rw [habs, hthreshold, div_le_div_iff_of_pos_right hscale]
  unfold RoundsTo
  split_ifs with hover <;> rw [hiff] at hover
  · have hpos : (0 : ℚ) < num / den := lt_of_lt_of_le (by norm_num [overflowUnits]) hover
    have hsign : x < 0 ↔ neg = true := by
      rw [hx, div_lt_iff₀ hscale, zero_mul]
      cases neg <;> simp [signFactor, hpos, hy]
    rw [show decide (x < 0) = neg by simp [hsign], roundMag_overflow hden hover, pack_infMag]
  · obtain ⟨hlt, hnear⟩ := roundMag_nearest hden (not_le.1 hover)
    refine ⟨finiteBits_iff.2 ?_, fun w _ => hx ▸ nearest_pack hy hlt hnear w⟩
    rwa [magOf_pack neg (roundMag_lt num den)]

/-! ### The four operations -/

section Operations
variable {a b : Word}

theorem fadd32_rounds (ha : FiniteBits a) (hb : FiniteBits b) :
    ∃ v, fadd32 a b = .num v ∧ RoundsTo (realOf a + realOf b) v := by
  have hsum : realOf a + realOf b = (signedUnits a + signedUnits b : ℤ) / 2 ^ 149 := by
    rw [realOf_eq_signedUnits, realOf_eq_signedUnits, Int.cast_add, add_div]
  rw [fadd32_of_finite ha hb, hsum]
  generalize signedUnits a + signedUnits b = n
  split_ifs with hn
  · refine ⟨_, rfl, ?_⟩
    rw [← pack_zero, ← roundMag_zero 1]
    exact roundsTo_pack Nat.one_pos (by simp [hn])
  · refine ⟨_, rfl, roundsTo_pack Nat.one_pos ?_⟩
    have habs : (n : ℚ) = signFactor (decide (n < 0)) * n.natAbs := by
      rcases lt_or_ge n 0 with hneg | hpos
      · simp [signFactor, hneg, abs_of_neg]
      · simp [signFactor, not_lt.2 hpos, abs_of_nonneg hpos]
    rw [Nat.cast_one, div_one, ← habs]

theorem fsub32_rounds (ha : FiniteBits a) (hb : FiniteBits b) :
    ∃ v, fsub32 a b = .num v ∧ RoundsTo (realOf a - realOf b) v := by
  rw [fsub32_of_not_isNaN (isNaN_of_finite hb), sub_eq_add_neg, ← realOf_fneg32]
  exact fadd32_rounds ha (finiteBits_fneg32.2 hb)

theorem fmul32_rounds (ha : FiniteBits a) (hb : FiniteBits b) :
    ∃ v, fmul32 a b = .num v ∧ RoundsTo (realOf a * realOf b) v := by
  refine ⟨_, fmul32_of_finite ha hb, roundsTo_pack (Nat.two_pow_pos 149) ?_⟩
  rw [realOf_eq, realOf_eq, signFactor_bne]
  push_cast
  ring

/-- A quotient of values is the quotient of the units under the XOR of the signs. -/
theorem realOf_div (a b : Word) :
    realOf a / realOf b = signFactor (signOf a != signOf b) * (units a / units b) := by
  have hinv : (signFactor (signOf b))⁻¹ = signFactor (signOf b) :=
    inv_eq_of_mul_eq_one_left (signFactor_mul_self _)
  have hscale : (2 ^ 149 : ℚ) ≠ 0 := by positivity
  rw [realOf_eq, realOf_eq, signFactor_bne, div_div_div_cancel_right₀ hscale, mul_div_mul_comm,
    div_eq_mul_inv (signFactor _), hinv]

theorem fdiv32_rounds (ha : FiniteBits a) (hb : FiniteBits b) (hb0 : realOf b ≠ 0) :
    ∃ v, fdiv32 a b = .num v ∧ RoundsTo (realOf a / realOf b) v := by
  refine ⟨_, fdiv32_of_finite ha hb (isZero_of_realOf_ne_zero hb0),
    roundsTo_pack (units_pos hb0) ?_⟩
  rw [realOf_div]
  push_cast
  ring

end Operations

/-! ### The remainder -/

/-- The remainder of two magnitudes has no more significant bits than they have, so it is the
magnitude of a pattern: at the finer scale of the two it is less than the divisor's significand, and
a dividend of the finer scale is less than the divisor. -/
theorem exists_magUnits_eq_mod (m n : Nat) : ∃ p, magUnits p = magUnits m % magUnits n := by
  obtain ⟨k, q, rfl, hq, hk⟩ := exists_significand m
  obtain ⟨l, r, rfl, hr, hl⟩ := exists_significand n
  rcases Nat.lt_or_ge k l with hlt | hge
  · have hlt : magUnits (k * 2 ^ 23 + q) < magUnits (l * 2 ^ 23 + r) :=
      magUnits_strictMono (by omega)
    exact ⟨_, (Nat.mod_eq_of_lt hlt).symm⟩
  · rw [magUnits_significand hq.le hk, magUnits_significand hr.le hl]
    obtain ⟨j, rfl⟩ := Nat.exists_eq_add_of_le' hge
    rw [pow_add, ← mul_assoc, Nat.mul_mod_mul_right]
    rcases Nat.eq_zero_or_pos r with rfl | hpos
    · obtain ⟨p, hp⟩ := exists_magUnits_eq (j + l) hq
      exact ⟨p, by rw [hp, Nat.mod_zero, pow_add, mul_assoc]⟩
    · exact exists_magUnits_eq l ((Nat.mod_lt _ hpos).trans hr)

theorem fmod32_exact {a b : Word} (ha : FiniteBits a) (hb : FiniteBits b) (hb0 : realOf b ≠ 0) :
    ∃ p < magOf b, magUnits p = units a % units b ∧ fmod32 a b = .num (pack (signOf a) p) := by
  obtain ⟨p, hp⟩ := exists_magUnits_eq_mod (magOf a) (magOf b)
  rw [← units_eq, ← units_eq] at hp
  have hlt : p < magOf b := by
    rw [← magUnits_strictMono.lt_iff_lt, hp, ← units_eq]
    exact Nat.mod_lt _ (units_pos hb0)
  refine ⟨p, hlt, hp, ?_⟩
  rw [fmod32_of_finite ha hb (isZero_of_realOf_ne_zero hb0), ← hp,
    roundMag_magUnits (hlt.trans (finiteBits_iff.1 hb))]

theorem truncRat_neg (x : ℚ) : truncRat (-x) = -truncRat x := by
  rcases lt_trichotomy x 0 with h | rfl | h
  · simp [truncRat, h.le, not_le.2 h, Int.floor_neg]
  · simp [truncRat]
  · simp [truncRat, h.le, not_le.2 h, Int.ceil_neg]

/-- Rounding a signed quotient of natural numbers toward zero is the integer division under the
sign. -/
theorem truncRat_signFactor (neg : Bool) (m n : Nat) :
    (truncRat (signFactor neg * (m / n)) : ℚ) = signFactor neg * (m / n : ℕ) := by
  have hpos : truncRat (m / n) = (m / n : ℕ) := by
    rw [truncRat, if_pos (by positivity), Rat.floor_natCast_div_natCast]
    rfl
  cases neg with
  | false => rw [show signFactor false = 1 from rfl, one_mul, one_mul, hpos, Int.cast_natCast]
  | true =>
    rw [show signFactor true = -1 from rfl, neg_one_mul, neg_one_mul, truncRat_neg, hpos,
      Int.cast_neg, Int.cast_natCast]

/-- The value of the remainder is the dividend less the truncated quotient times the divisor. -/
theorem realOf_sub_truncRat_mul (a b : Word) :
    realOf a - truncRat (realOf a / realOf b) * realOf b =
      signFactor (signOf a) * (units a % units b : ℕ) / 2 ^ 149 := by
  have hmod : (units a : ℚ) = units b * (units a / units b : ℕ) + (units a % units b : ℕ) :=
    mod_cast (Nat.div_add_mod _ _).symm
  rw [realOf_div, truncRat_signFactor, signFactor_bne, realOf_eq, realOf_eq]
  linear_combination signFactor (signOf a) / 2 ^ 149 * hmod -
    signFactor (signOf a) * (units a / units b : ℕ) * units b / 2 ^ 149 *
      signFactor_mul_self (signOf b)

theorem abs_realOf (v : Word) : |realOf v| = units v / 2 ^ 149 := by
  rw [realOf_eq, abs_div, abs_mul, abs_signFactor, one_mul, Nat.abs_cast]
  norm_num

end Sys2Proof.Machine

namespace Sys2Proof.Proofs

open Machine Claim

/-- Settles O43: the four operations take the exact result in units of 2^-149 and round it once. -/
theorem floatArithmeticIsCorrectlyRounded : Obligations.FloatArithmeticIsCorrectlyRounded :=
  fun _ _ ha hb => ⟨fadd32_rounds ha hb, fsub32_rounds ha hb, fmul32_rounds ha hb,
    fdiv32_rounds ha hb⟩

/-- Settles O44: the remainder of two magnitudes is a magnitude, and rounding leaves it as it is. -/
theorem floatRemainderIsExact : Obligations.FloatRemainderIsExact := by
  intro a b ha hb hb0
  obtain ⟨p, hlt, hp, hmod⟩ := fmod32_exact ha hb hb0
  have hp31 : p < 2 ^ 31 := hlt.trans (magOf_lt b)
  have hunits : units (pack (signOf a) p) = units a % units b := by
    rw [units_eq, magOf_pack _ hp31, hp]
  refine ⟨_, hmod, ?_, signOf_pack _ hp31, ?_, ?_⟩
  · rw [finiteBits_iff, magOf_pack _ hp31]
    exact hlt.trans (finiteBits_iff.1 hb)
  · rw [realOf_sub_truncRat_mul, realOf_eq, signOf_pack _ hp31, hunits]
  · rw [abs_realOf, abs_realOf, hunits]
    gcongr
    exact Nat.mod_lt _ (units_pos hb0)

end Sys2Proof.Proofs

/-! The relational instructions (`spec/43_relational.md` R170 to R192): operand checks, the truth
value written, and its frame. -/

namespace Sys2Proof.Machine

open Claim

/-! ### The truth value a relation writes -/

theorem boolWord_of_true {b : Bool} (h : b = true) : boolWord b = 1 := by rw [h]; rfl

theorem boolWord_of_not_true {b : Bool} (h : ¬ b = true) : boolWord b = 0 := by
  rw [Bool.not_eq_true] at h
  rw [h]
  rfl

/-- What every relation does on operands in range (R170): `x[d]` is 1 or 0 by `p`, `pc` advances,
and nothing else changes. -/
theorem writes_truth (s : State) (d : Fin 32) {p : Prop} {b : Bool} (hb : b = true ↔ p) :
    (p → (s.writeX d (boolWord b)).advance.readX d = 1) ∧
      (¬ p → (s.writeX d (boolWord b)).advance.readX d = 0) ∧
      Completes s (s.writeX d (boolWord b)).advance { pc := s.pc + 1, xs := fun r => r = d } := by
  have hread : (s.writeX d (boolWord b)).advance.readX d = boolWord b :=
    State.readX_writeX_self s d _
  rw [hread, ← hb]
  exact ⟨boolWord_of_true, boolWord_of_not_true, completes_writeX_advance s d _⟩

/-! ### Relations of two registers -/

/-- R174 to R185 from the shape the integer and the float relations share: `f` decides `rel`. -/
theorem regRelationRule_of_exec {n : Nat} {mk : Word → Word → Word → Instr}
    {bank : State → Fin 32 → Word} {rel : Word → Word → Prop} (f : Word → Word → Bool)
    (hfields : ∀ o1 o2 o3, (mk o1 o2 o3).fields = fieldsOf n o1 o2 o3)
    (hexec : ∀ o1 o2 o3 s, exec (mk o1 o2 o3) s =
      .next (withRegs3 (mk o1 o2 o3) o1 o2 o3 s fun d a b =>
        (s.writeX d (boolWord (f (bank s a) (bank s b)))).advance))
    (hf : ∀ u v, f u v = true ↔ rel u v) : RegRelationRule n mk bank rel := by
  intro s o1 o2 o3
  have hstep := hexec o1 o2 o3 s
  refine ⟨decode_wordOf (hfields ..), fun d a b hd ha hb => ?_, fun hbad => ?_⟩
  · rw [withRegs3_of_is hd ha hb] at hstep
    exact ⟨_, hstep, writes_truth s d (hf ..)⟩
  · rw [withRegs3_of_badIndex hbad] at hstep
    exact raises_of_exec (hfields ..) hstep

/-- The integer relations decide a relation of the signed values (R171). -/
theorem intRelationRule_of_exec {n : Nat} {mk : Word → Word → Word → Instr}
    {rel : Word → Word → Prop} (f : Int → Int → Bool)
    (hfields : ∀ o1 o2 o3, (mk o1 o2 o3).fields = fieldsOf n o1 o2 o3)
    (hexec : ∀ o1 o2 o3 s, exec (mk o1 o2 o3) s = .next (intRelation (mk o1 o2 o3) o1 o2 o3 f s))
    (hf : ∀ u v : Word, f u.toInt v.toInt = true ↔ rel u v) :
    RegRelationRule n mk State.readX rel :=
  regRelationRule_of_exec (fun u v => f u.toInt v.toInt) hfields hexec hf

/-- The float relations read the float bank and write the integer bank (R170). -/
theorem floatRelationRule_of_exec {n : Nat} {mk : Word → Word → Word → Instr}
    {rel : Word → Word → Prop} (f : Word → Word → Bool)
    (hfields : ∀ o1 o2 o3, (mk o1 o2 o3).fields = fieldsOf n o1 o2 o3)
    (hexec : ∀ o1 o2 o3 s, exec (mk o1 o2 o3) s = .next (floatRelation (mk o1 o2 o3) o1 o2 o3 f s))
    (hf : ∀ u v, f u v = true ↔ rel u v) : RegRelationRule n mk State.readF rel :=
  regRelationRule_of_exec f hfields hexec hf

/-! ### Relations of two slots -/

theorem text?_of_is {table : List Text} {o : Word} {k : Fin table.length} (hk : Is o k) :
    text? table o = some table[k] :=
  text?_eq_some_iff.2 ⟨k, hk, List.getElem?_eq_getElem k.isLt⟩

theorem withSlot_of_some {i : Instr} {o : Word} {s : State} {body : Text → State} {t : Text}
    (h : text? s.strTable o = some t) : withSlot i o s body = body t := by
  rw [withSlot, h]

section Slots
variable {i : Instr} {o1 o2 o3 : Word} {s : State} {body : Fin 32 → Text → Text → State}

theorem withRegSlots_of_is {d : Fin 32} {j k : Fin s.strTable.length}
    (hd : Is o1 d) (hj : Is o2 j) (hk : Is o3 k) :
    withRegSlots i o1 o2 o3 s body = body d s.strTable[j] s.strTable[k] := by
  rw [withRegSlots, withReg_of_some (reg?_eq_some_iff.2 hd), withSlot_of_some (text?_of_is hj),
    withSlot_of_some (text?_of_is hk)]

/-- The register is checked first, whatever the slots are (R170). -/
theorem withRegSlots_of_badReg (h : BadIndex 32 o1) :
    withRegSlots i o1 o2 o3 s body = s.raise .operandOutOfRange i :=
  withReg_of_none (reg?_eq_none_iff.2 h)

theorem withRegSlots_of_badSlot (hreg : ¬ BadIndex 32 o1)
    (h : BadIndex s.strTable.length o2 ∨ BadIndex s.strTable.length o3) :
    withRegSlots i o1 o2 o3 s body = s.raise .stringIndexOutOfRange i := by
  have hslot : text? s.strTable o2 = none ∨ text? s.strTable o3 = none :=
    h.imp text?_eq_none_iff.2 text?_eq_none_iff.2
  rcases withRegSlots_cases i o1 o2 o3 s body with ⟨d, t, u, _, ht, hu, _⟩ | ⟨hnone, _⟩ | ⟨_, _, e⟩
  · simp [ht, hu] at hslot
  · exact absurd (reg?_eq_none_iff.1 hnone) hreg
  · exact e

end Slots

/-- R186 to R191 from the shape `textRelation`: `f` decides `rel` of the sign of `cmp_text`. -/
theorem textRelationRule_of_exec {n : Nat} {mk : Word → Word → Word → Instr} {rel : Int → Prop}
    (f : Int → Bool) (hfields : ∀ o1 o2 o3, (mk o1 o2 o3).fields = fieldsOf n o1 o2 o3)
    (hexec : ∀ o1 o2 o3 s, exec (mk o1 o2 o3) s = .next (textRelation (mk o1 o2 o3) o1 o2 o3 f s))
    (hf : ∀ c, f c = true ↔ rel c) : TextRelationRule n mk rel := by
  intro s o1 o2 o3
  have hstep := hexec o1 o2 o3 s
  rw [textRelation] at hstep
  refine ⟨decode_wordOf (hfields ..), fun d j k hd hj hk => ?_, fun hbad => ?_, fun hreg hbad => ?_⟩
  · rw [withRegSlots_of_is hd hj hk] at hstep
    exact ⟨_, hstep, writes_truth s d (hf _)⟩
  · rw [withRegSlots_of_badReg hbad] at hstep
    exact raises_of_exec (hfields ..) hstep
  · rw [withRegSlots_of_badSlot hreg hbad] at hstep
    exact raises_of_exec (hfields ..) hstep

/-! ### What reads the truth value -/

/-- What a relation with the destination field `o` can lead to: a truth value in its register, or a
fault. -/
def TruthOrFault (o : Word) (s t : State) : Prop :=
  (∃ r b, reg? o = some r ∧ t = (s.writeX r (boolWord b)).advance) ∨ t.run = .faulted

theorem truthOrFault_withRegs3 (i : Instr) (o1 o2 o3 : Word) (s : State)
    (f : Fin 32 → Fin 32 → Bool) :
    TruthOrFault o1 s (withRegs3 i o1 o2 o3 s fun d a b =>
      (s.writeX d (boolWord (f a b))).advance) := by
  rcases withRegs3_cases i o1 o2 o3 s fun d a b => (s.writeX d (boolWord (f a b))).advance with
    ⟨d, a, b, hd, _, _, e⟩ | ⟨_, e⟩ <;> rw [e]
  · exact .inl ⟨d, _, hd, rfl⟩
  · exact .inr rfl

theorem truthOrFault_textRelation (i : Instr) (o1 o2 o3 : Word) (s : State) (f : Int → Bool) :
    TruthOrFault o1 s (textRelation i o1 o2 o3 f s) := by
  unfold textRelation
  rcases withRegSlots_cases i o1 o2 o3 s _ with
    ⟨d, t, u, hd, _, _, e⟩ | ⟨_, e⟩ | ⟨_, _, e⟩ <;> rw [e]
  · exact .inl ⟨d, _, hd, rfl⟩
  · exact .inr rfl
  · exact .inr rfl

theorem exec_truthOrFault {i : Instr} {s t : State} {o : Word} (hi : relationDest i = some o)
    (h : exec i s = .next t) : TruthOrFault o s t := by
  cases i with
  | equi d a b | neqi d a b | lthi d a b | ltei d a b | gthi d a b | gtei d a b
  | equf d a b | neqf d a b | lthf d a b | ltef d a b | gthf d a b | gtef d a b =>
    cases hi
    cases next_inj h
    exact truthOrFault_withRegs3 ..
  | equs d j k | neqs d j k | lths d j k | ltes d j k | gths d j k | gtes d j k =>
    cases hi
    cases next_inj h
    exact truthOrFault_textRelation ..
  | _ => cases hi

theorem boolWord_eq_zero_or_one (b : Bool) : boolWord b = 0 ∨ boolWord b = 1 := by
  cases b
  · exact .inl rfl
  · exact .inr rfl

section Readers
variable {s : State} {o : Word} {r : Fin 32} {c : Bool}

/-- A branch on a truth value takes no fault, taken or not (R202, R203). -/
theorem branchOn_run (hr : reg? o = some r) (hc : truthOf (s.readX r) = some c) (sense : Bool)
    (i : Instr) (off : Word) : (branchOn sense i o off s).run = s.run := by
  simp only [branchOn, withReg_of_some hr, hc]
  split
  · exact State.setPc_run ..
  · exact State.advance_run s

/-- `CALL 6` on a truth value emits its text (R261). -/
theorem exec_call_writeBool (hr : reg? o = some r) (hc : truthOf (s.readX r) = some c) (u : Word) :
    exec (.call 6 o u) s = .next (s.emit (boolText c)).advance := by
  change Host.Outcome.next (writeBoolService (.call 6 o u) o s) = _
  rw [writeBoolService, withReg_of_some hr, hc]

end Readers

end Sys2Proof.Machine

namespace Sys2Proof.Proofs

open Machine Claim

/-- Settles O17, each relation from the shape they share; equal signed values are equal words. -/
theorem intRelationsWriteTheirTruth : Obligations.IntRelationsWriteTheirTruth :=
  ⟨intRelationRule_of_exec _ (fun _ _ _ => rfl) (fun _ _ _ _ => rfl)
      fun _ _ => decide_eq_true_iff.trans BitVec.toInt_inj,
    intRelationRule_of_exec _ (fun _ _ _ => rfl) (fun _ _ _ _ => rfl)
      fun _ _ => decide_eq_true_iff.trans BitVec.toInt_inj.not,
    intRelationRule_of_exec _ (fun _ _ _ => rfl) (fun _ _ _ _ => rfl) fun _ _ => decide_eq_true_iff,
    intRelationRule_of_exec _ (fun _ _ _ => rfl) (fun _ _ _ _ => rfl) fun _ _ => decide_eq_true_iff,
    intRelationRule_of_exec _ (fun _ _ _ => rfl) (fun _ _ _ _ => rfl) fun _ _ => decide_eq_true_iff,
    intRelationRule_of_exec _ (fun _ _ _ => rfl) (fun _ _ _ _ => rfl) fun _ _ => decide_eq_true_iff⟩

/-- Settles O18, each relation from the shape they share. -/
theorem floatRelationsWriteTheirTruth : Obligations.FloatRelationsWriteTheirTruth :=
  ⟨floatRelationRule_of_exec _ (fun _ _ _ => rfl) (fun _ _ _ _ => rfl) fun _ _ => Iff.rfl,
    floatRelationRule_of_exec _ (fun _ _ _ => rfl) (fun _ _ _ _ => rfl)
      fun _ _ => (Bool.not_eq_true' _).to_iff,
    floatRelationRule_of_exec _ (fun _ _ _ => rfl) (fun _ _ _ _ => rfl) fun _ _ => Iff.rfl,
    floatRelationRule_of_exec _ (fun _ _ _ => rfl) (fun _ _ _ _ => rfl) fun _ _ => Iff.rfl,
    floatRelationRule_of_exec _ (fun _ _ _ => rfl) (fun _ _ _ _ => rfl) fun _ _ => Iff.rfl,
    floatRelationRule_of_exec _ (fun _ _ _ => rfl) (fun _ _ _ _ => rfl) fun _ _ => Iff.rfl⟩

/-- Settles O19, each relation from the shape they share. -/
theorem stringRelationsWriteTheirTruth : Obligations.StringRelationsWriteTheirTruth :=
  ⟨textRelationRule_of_exec _ (fun _ _ _ => rfl) (fun _ _ _ _ => rfl) fun _ => decide_eq_true_iff,
    textRelationRule_of_exec _ (fun _ _ _ => rfl) (fun _ _ _ _ => rfl) fun _ => decide_eq_true_iff,
    textRelationRule_of_exec _ (fun _ _ _ => rfl) (fun _ _ _ _ => rfl) fun _ => decide_eq_true_iff,
    textRelationRule_of_exec _ (fun _ _ _ => rfl) (fun _ _ _ _ => rfl) fun _ => decide_eq_true_iff,
    textRelationRule_of_exec _ (fun _ _ _ => rfl) (fun _ _ _ _ => rfl) fun _ => decide_eq_true_iff,
    textRelationRule_of_exec _ (fun _ _ _ => rfl) (fun _ _ _ _ => rfl) fun _ => decide_eq_true_iff⟩

/-- Settles O54: without a fault the register holds a truth value, which both branches and `CALL 6`
read as a boolean. -/
theorem relationsLeaveABoolean : Obligations.RelationsLeaveABoolean := by
  intro i s t o d hi hd _ h hrun
  rcases exec_truthOrFault hi h with ⟨r, b, hr, ht⟩ | hfault
  · obtain rfl : r = d := Option.some.inj (hr.symm.trans (reg?_eq_some_iff.2 hd))
    have hread : t.readX r = boolWord b := by simp [ht]
    have htruth : truthOf (t.readX r) = some b := by rw [hread, truthOf_boolWord]
    refine ⟨hread ▸ boolWord_eq_zero_or_one b, fun off u => ⟨_, rfl, ?_⟩, fun off u => ⟨_, rfl, ?_⟩,
      fun u => ⟨_, exec_call_writeBool hr htruth u, hrun⟩⟩
    · exact (branchOn_run hr htruth ..).trans hrun
    · exact (branchOn_run hr htruth ..).trans hrun
  · simp [hrun] at hfault

end Sys2Proof.Proofs

/-! The order of texts (`spec/43_relational.md` R173). -/

namespace Sys2Proof.Machine

/-! ### One equation for each way two texts can begin -/

theorem cmpText_cons_self (c : Byte) (s t : Text) : cmpText (c :: s) (c :: t) = cmpText s t := by
  simp [cmpText]

theorem cmpText_cons_of_ne {c d : Byte} (h : c ≠ d) (s t : Text) :
    cmpText (c :: s) (d :: t) = if c.toNat < d.toNat then -1 else 1 := by
  have hne : c.toNat ≠ d.toNat := mt BitVec.eq_of_toNat_eq h
  rw [cmpText]
  split
  · rfl
  · rw [if_pos (by omega)]

theorem cmpText_nil_left {t : Text} (h : t ≠ []) : cmpText [] t = -1 := by
  obtain ⟨d, t, rfl⟩ := List.exists_cons_of_ne_nil h
  rw [cmpText]

theorem cmpText_nil_right {s : Text} (h : s ≠ []) : cmpText s [] = 1 := by
  obtain ⟨c, s, rfl⟩ := List.exists_cons_of_ne_nil h
  rw [cmpText]

/-- What two texts share at their start decides nothing. -/
theorem cmpText_append_left (p s t : Text) : cmpText (p ++ s) (p ++ t) = cmpText s t := by
  induction p with
  | nil => rfl
  | cons c p ih => exact (cmpText_cons_self c _ _).trans ih

/-! ### The three ways a comparison ends -/

/-- The first difference decides. -/
theorem cmpText_of_first_difference {s t : Text} {j : Nat} (hs : j < s.length) (ht : j < t.length)
    (hshared : s.take j = t.take j) (hne : s[j] ≠ t[j]) :
    cmpText s t = if s[j].toNat < t[j].toNat then -1 else 1 :=
  calc cmpText s t
    _ = cmpText (s.take j ++ s[j] :: s.drop (j + 1)) (t.take j ++ t[j] :: t.drop (j + 1)) := by
      rw [List.getElem_cons_drop, List.take_append_drop, List.getElem_cons_drop,
        List.take_append_drop]
    _ = cmpText (s[j] :: s.drop (j + 1)) (t[j] :: t.drop (j + 1)) := by
      rw [hshared, cmpText_append_left]
    _ = if s[j].toNat < t[j].toNat then -1 else 1 := cmpText_cons_of_ne hne _ _

theorem ne_nil_of_length_lt_append {s r : Text} (h : s.length < (s ++ r).length) : r ≠ [] := by
  rintro rfl
  simp at h

/-- A text is less than its proper extensions. -/
theorem cmpText_of_prefix {s t : Text} (h : s <+: t) (hlt : s.length < t.length) :
    cmpText s t = -1 := by
  obtain ⟨r, rfl⟩ := h
  have hcmp := cmpText_append_left s [] r
  rw [List.append_nil] at hcmp
  rw [hcmp, cmpText_nil_left (ne_nil_of_length_lt_append hlt)]

/-- A proper extension of a text is greater than it. -/
theorem cmpText_of_extension {s t : Text} (h : t <+: s) (hlt : t.length < s.length) :
    cmpText s t = 1 := by
  obtain ⟨r, rfl⟩ := h
  have hcmp := cmpText_append_left t r []
  rw [List.append_nil] at hcmp
  rw [hcmp, cmpText_nil_right (ne_nil_of_length_lt_append hlt)]

theorem cmpText_self (s : Text) : cmpText s s = 0 := by
  induction s with
  | nil => rfl
  | cons c s ih => rw [cmpText_cons_self, ih]

theorem eq_of_cmpText_eq_zero {s t : Text} (h : cmpText s t = 0) : s = t := by
  induction s generalizing t with
  | nil =>
    by_contra hne
    rw [cmpText_nil_left (Ne.symm hne)] at h
    cases h
  | cons c s ih =>
    cases t with
    | nil => cases h
    | cons d t =>
      by_cases hcd : c = d
      · subst hcd
        rw [cmpText_cons_self] at h
        rw [ih h]
      · rw [cmpText_cons_of_ne hcd] at h
        split at h <;> cases h

end Sys2Proof.Machine

namespace Sys2Proof.Proofs

open Machine Claim

/-- Settles O41: a shared start decides nothing, and what follows it decides at once. -/
theorem textOrderIsLexicographic : Obligations.TextOrderIsLexicographic :=
  fun s _ => ⟨fun _ => cmpText_of_first_difference, cmpText_of_prefix, cmpText_of_extension,
    eq_of_cmpText_eq_zero, fun h => h ▸ cmpText_self s⟩

end Sys2Proof.Proofs

/-! The order of binary32 patterns (`spec/43_relational.md` R172): a pattern that is no NaN stands
where its signed number of units of 2^-149 puts it, the infinities at the two ends. -/

namespace Sys2Proof.Machine

open Claim

/-! ### Patterns that are no NaN -/

/-- A pattern is its sign and its magnitude. -/
theorem pack_signOf_magOf (v : Word) : pack (signOf v) (magOf v) = v := by
  have hv : v.toNat < 2 ^ 32 := v.isLt
  refine BitVec.eq_of_toNat_eq ?_
  rw [toNat_pack _ (magOf_lt v), signOf_eq, magOf]
  by_cases hsign : 2 ^ 31 ≤ v.toNat
  · rw [decide_eq_true hsign, if_pos rfl]
    omega
  · rw [decide_eq_false hsign, if_neg Bool.false_ne_true]
    omega

theorem finiteBits_or_infinity {v : Word} (h : isNaN v = false) :
    FiniteBits v ∨ ∃ p, v = infinity p := by
  have hle : magOf v ≤ infMag := by
    rw [← not_lt, ← isNaN_iff, h]
    exact Bool.false_ne_true
  refine hle.lt_or_eq.imp finiteBits_iff.2 fun heq => ⟨signOf v, ?_⟩
  rw [← pack_infMag, ← heq, pack_signOf_magOf]

/-! ### The order of signed units -/

/-- The number of units at which comparison places an infinity, above those of every number. -/
def infUnits : Int := magUnits infMag

theorem infUnits_pos : 0 < infUnits := by
  have hzero : magUnits 0 = 0 := magUnits_significand (k := 0) (q := 0) (Nat.zero_le _) (.inl rfl)
  have hlt : magUnits 0 < magUnits infMag := magUnits_strictMono (by decide)
  unfold infUnits
  omega

theorem signedUnits_infinity (p : Bool) :
    signedUnits (infinity p) = if p then -infUnits else infUnits := by
  have hmag : magOf (infinity p) = infMag := isInf_iff.1 (isInf_infinity p)
  rw [signedUnits, signOf_infinity, units_eq, hmag, infUnits]

theorem abs_signedUnits_lt {v : Word} (h : FiniteBits v) : |signedUnits v| < infUnits := by
  have hlt : units v < magUnits infMag := by
    rw [units_eq]
    exact magUnits_strictMono (finiteBits_iff.1 h)
  have habs : |signedUnits v| = units v := by
    unfold signedUnits
    split
    · rw [abs_neg, Nat.abs_cast]
    · exact Nat.abs_cast _
  rw [habs, infUnits]
  exact_mod_cast hlt

/-- The units at which a pattern that is no NaN can stand. -/
def placeRange : Set Int := Set.Icc (-infUnits) infUnits

theorem signedUnits_mem_placeRange {v : Word} (h : isNaN v = false) :
    signedUnits v ∈ placeRange := by
  have hpos := infUnits_pos
  rcases finiteBits_or_infinity h with hfin | ⟨p, rfl⟩
  · exact abs_le.1 (abs_signedUnits_lt hfin).le
  · rw [signedUnits_infinity, placeRange, Set.mem_Icc]
    split <;> omega

/-- The place of `n` units in the order of R172. -/
def placeOfUnits (n : Int) : WithBot (WithTop ℚ) :=
  if n ≤ -infUnits then ⊥
  else if infUnits ≤ n then ((⊤ : WithTop ℚ) : WithBot (WithTop ℚ))
  else (((n / 2 ^ 149 : ℚ) : WithTop ℚ) : WithBot (WithTop ℚ))

theorem placeOf_eq {v : Word} (h : isNaN v = false) : placeOf v = placeOfUnits (signedUnits v) := by
  have hpos := infUnits_pos
  rcases finiteBits_or_infinity h with hfin | ⟨p, rfl⟩
  · obtain ⟨hlo, hhi⟩ := abs_lt.1 (abs_signedUnits_lt hfin)
    have hne (p : Bool) : v ≠ infinity p := by
      rintro rfl
      simpa using isInf_of_finite hfin
    rw [placeOf, if_neg (hne _), if_neg (hne _), placeOfUnits, if_neg hlo.not_ge, if_neg hhi.not_ge,
      realOf_eq_signedUnits]
  · rw [signedUnits_infinity]
    cases p with
    | true => rw [if_pos rfl, placeOf, if_pos rfl, placeOfUnits, if_pos le_rfl]
    | false =>
      have hne : infinity false ≠ infinity true := by decide
      rw [if_neg Bool.false_ne_true, placeOf, if_neg hne, if_pos rfl, placeOfUnits,
        if_neg (by omega), if_pos le_rfl]

theorem placeOfUnits_strictMonoOn : StrictMonoOn placeOfUnits placeRange := by
  rintro m ⟨_, hm⟩ n ⟨_, hn⟩ hlt
  have hnbot : ¬ n ≤ -infUnits := by omega
  have hmtop : ¬ infUnits ≤ m := by omega
  unfold placeOfUnits
  rw [if_neg hnbot, if_neg hmtop]
  split_ifs
  · exact WithBot.bot_lt_coe _
  · exact WithBot.bot_lt_coe _
  · exact WithBot.coe_lt_coe.2 (WithTop.coe_lt_top _)
  · refine WithBot.coe_lt_coe.2 (WithTop.coe_lt_coe.2 ?_)
    gcongr

/-! ### The predicates -/

section Predicates
variable {a b : Word}

theorem comparisons_of_isNaN (h : isNaN a = true ∨ isNaN b = true) :
    feq32 a b = false ∧ flt32 a b = false ∧ fle32 a b = false := by
  rcases h with h | h <;> simp [feq32, flt32, fle32, h]

variable (ha : isNaN a = false) (hb : isNaN b = false)
include ha hb

theorem feq32_iff : feq32 a b = true ↔ placeOf a = placeOf b := by
  rw [placeOf_eq ha, placeOf_eq hb, placeOfUnits_strictMonoOn.injOn.eq_iff
    (signedUnits_mem_placeRange ha) (signedUnits_mem_placeRange hb)]
  simp [feq32, ha, hb]

theorem flt32_iff : flt32 a b = true ↔ placeOf a < placeOf b := by
  rw [placeOf_eq ha, placeOf_eq hb, placeOfUnits_strictMonoOn.lt_iff_lt
    (signedUnits_mem_placeRange ha) (signedUnits_mem_placeRange hb)]
  simp [flt32, ha, hb]

theorem fle32_iff : fle32 a b = true ↔ placeOf a ≤ placeOf b := by
  rw [placeOf_eq ha, placeOf_eq hb, placeOfUnits_strictMonoOn.le_iff_le
    (signedUnits_mem_placeRange ha) (signedUnits_mem_placeRange hb)]
  simp [fle32, ha, hb]

end Predicates

end Sys2Proof.Machine

namespace Sys2Proof.Proofs

open Machine Claim

/-- Settles O45: the units that the predicates compare are in the order of the places. -/
theorem floatComparisonIsByValue : Obligations.FloatComparisonIsByValue :=
  fun _ _ => ⟨comparisons_of_isNaN, fun ha hb =>
    ⟨feq32_iff ha hb, flt32_iff ha hb, fle32_iff ha hb⟩⟩

end Sys2Proof.Proofs

/-! The control transfers (`spec/44_control_transfer.md` R200 to R207): the branches in each case of
their condition, the wrapped branch target, and the fetch that checks every target. -/

namespace Sys2Proof.Machine

open Claim

/-! ### The condition of a branch -/

theorem truthOf_eq_none_iff {v : Word} : truthOf v = none ↔ v ≠ 0 ∧ v ≠ 1 := by
  unfold truthOf
  split
  next h1 => simp [h1]
  next h1 =>
    split
    next h0 => simp [h0]
    next h0 => exact iff_of_true rfl ⟨h0, h1⟩

section Branches
variable {sense : Bool} {i : Instr} {o off : Word} {s : State} {r : Fin 32}

theorem branchOn_of_not_taken {c : Bool} (hr : reg? o = some r)
    (ht : truthOf (s.readX r) = some c) (hc : c ≠ sense) :
    branchOn sense i o off s = s.advance := by
  simp [branchOn, withReg_of_some hr, ht, hc]

/-- The value is checked whether or not the branch would be taken (R202). -/
theorem branchOn_of_no_boolean (hr : reg? o = some r) (ht : truthOf (s.readX r) = none) :
    branchOn sense i o off s = s.raise .invalidBooleanValue i := by
  simp [branchOn, withReg_of_some hr, ht]

theorem branchOn_of_badIndex (h : BadIndex 32 o) :
    branchOn sense i o off s = s.raise .operandOutOfRange i :=
  withReg_of_none (reg?_eq_none_iff.2 h)

end Branches

/-- R202 and R203 from the shape `branchOn`: a branch is taken on the truth value `sense`. -/
theorem branchRule_of_exec {n : Nat} {mk : Word → Word → Word → Instr} (sense : Bool)
    (hfields : ∀ o1 o2 o3, (mk o1 o2 o3).fields = fieldsOf n o1 o2 o3)
    (hexec : ∀ o1 o2 o3 s,
      exec (mk o1 o2 o3) s = .next (branchOn sense (mk o1 o2 o3) o1 o2 s)) :
    BranchRule n mk (boolWord sense) (boolWord !sense) := by
  intro s o1 o2 o3
  have hstep := hexec o1 o2 o3 s
  refine ⟨decode_wordOf (hfields ..), fun r hr hx => ?taken, fun r hr hx => ?notTaken,
    fun r hr h0 h1 => ?noBoolean, fun hbad => ?badIndex⟩
  case taken =>
    have htruth : truthOf (s.readX r) = some sense := by rw [hx, truthOf_boolWord]
    rw [branchOn_of_taken (reg?_eq_some_iff.2 hr) htruth] at hstep
    exact ⟨_, hstep, completes_setPc s _⟩
  case notTaken =>
    have htruth : truthOf (s.readX r) = some !sense := by rw [hx, truthOf_boolWord]
    rw [branchOn_of_not_taken (reg?_eq_some_iff.2 hr) htruth (Bool.not_ne_self sense)] at hstep
    exact ⟨_, hstep, completes_advance s⟩
  case noBoolean =>
    rw [branchOn_of_no_boolean (reg?_eq_some_iff.2 hr) (truthOf_eq_none_iff.2 ⟨h0, h1⟩)] at hstep
    exact raises_of_exec (hfields ..) hstep
  case badIndex =>
    rw [branchOn_of_badIndex hbad] at hstep
    exact raises_of_exec (hfields ..) hstep

/-! ### Targets -/

/-- From a non-negative address the sum of R204 fits in 32 bits, or it wraps once and is negative. -/
theorem toInt_branchTarget_cases {pc : Word} (off : Word) (hpc : 0 ≤ pc.toInt) :
    (branchTarget pc off).toInt = pc.toInt + off.toInt ∨
      2 ^ 31 ≤ pc.toInt + off.toInt ∧
        (branchTarget pc off).toInt = pc.toInt + off.toInt - 2 ^ 32 := by
  have hpc_lt := BitVec.toInt_lt (x := pc)
  have hoff_lt := BitVec.toInt_lt (x := off)
  have hoff_le := BitVec.le_toInt off
  rw [branchTarget, wrap32, BitVec.toInt_ofInt, Int.bmod_def]
  omega

theorem exec_jump (addr u2 u3 : Word) (s : State) :
    exec (.jump addr u2 u3) s = .next (s.setPc addr) := rfl

/-- R122, R206: the fetch is where a target outside the instruction memory is caught. -/
theorem step_of_badIndex_pc {s : State} (hr : s.run = .running) (h : BadIndex 1024 s.pc) :
    step s = .next (s.takeFault .instructionAddressOutOfRange none) :=
  step_of_fetch_none hr (fetch_eq_none_iff.2 h)

end Sys2Proof.Machine

namespace Sys2Proof.Proofs

open Machine Claim

/-- Settles O21, both branches from the shape they share. -/
theorem branchesReadABooleanExactly : Obligations.BranchesReadABooleanExactly :=
  ⟨branchRule_of_exec true (fun _ _ _ => rfl) fun _ _ _ _ => rfl,
    branchRule_of_exec false (fun _ _ _ => rfl) fun _ _ _ _ => rfl⟩

/-- Settles O55: a target that wraps is negative, and the true sum is then beyond the memory. -/
theorem wrappedBranchTargetKeepsTheVerdict : Obligations.WrappedBranchTargetKeepsTheVerdict := by
  intro pc off hpc
  have hoff_lt := BitVec.toInt_lt (x := off)
  unfold BadIndex at *
  rcases toInt_branchTarget_cases (pc := pc) off (by omega) with hfits | ⟨hlarge, hwraps⟩
  · omega
  · omega

/-- Settles O20: `JUMP` writes `pc` and nothing else, so the next fetch is at the target. -/
theorem jumpGoesAndTheNextFetchChecks : Obligations.JumpGoesAndTheNextFetchChecks := by
  refine fun s addr u2 u3 => ⟨decode_wordOf rfl, s.setPc addr, exec_jump addr u2 u3 s,
    completes_setPc s addr, fun hr hbad => ?_⟩
  have hfault := entersFault_takeFault (s.setPc addr) 0 .instructionAddressOutOfRange none
  exact ⟨_, step_of_badIndex_pc hr hbad, hfault, hfault.faultPc⟩

end Sys2Proof.Proofs

/-! The rules of the loads, the constants and the stores (`spec/45_load_store.md` R220 to R227):
operand checks in their order, results and frames. -/

namespace Sys2Proof.Machine

open Claim

/-! ### Operand faults and the frame of a store -/

/-- R220: the register is checked first, so its fault is taken whatever the address is. -/
theorem withRegCell_of_badReg {i : Instr} {o addr : Word} {s : State}
    {body : Fin 32 → Fin Config.dataCapacity → State} (h : BadIndex 32 o) :
    withRegCell i o addr s body = s.raise .operandOutOfRange i :=
  withReg_of_none (reg?_eq_none_iff.2 h)

theorem withRegCell_of_badCell {i : Instr} {o addr : Word} {s : State}
    {body : Fin 32 → Fin Config.dataCapacity → State} (hreg : ¬ BadIndex 32 o)
    (h : BadIndex 1024 addr) :
    withRegCell i o addr s body = s.raise .dataAddressOutOfRange i := by
  rcases withRegCell_cases i o addr s body with ⟨_, _, _, ha, _⟩ | ⟨hnone, _⟩ | ⟨_, _, e⟩
  · cases ha.symm.trans (cell?_eq_none_iff.2 h)
  · exact absurd (reg?_eq_none_iff.1 hnone) hreg
  · exact e

/-- The two faults of an instruction of the formats LA and SA, loads and stores alike. -/
theorem raises_of_withRegCell {i : Instr} {q : Fields} {o addr : Word} {s : State}
    {body : Fin 32 → Fin Config.dataCapacity → State} (hq : i.fields = q)
    (hstep : exec i s = .next (withRegCell i o addr s body)) :
    (BadIndex 32 o → Raises i s .operandOutOfRange q) ∧
      (¬ BadIndex 32 o → BadIndex 1024 addr → Raises i s .dataAddressOutOfRange q) := by
  constructor
  · intro hreg
    exact raises_of_exec hq (withRegCell_of_badReg hreg ▸ hstep)
  · intro hreg hcell
    exact raises_of_exec hq (withRegCell_of_badCell hreg hcell ▸ hstep)

/-- The frame of a store to the cell `a` (R225, R226). -/
theorem completes_writeData_advance (s : State) (a : Nat) (v : Word) :
    Completes s (s.writeData a v).advance { pc := s.pc + 1, cells := fun c => c = a } where
  frame :=
    { frame_refl s with
      pc := rfl
      data := fun _ hc => State.readData_writeData_of_ne s v hc }
  run := rfl
  fr := rfl

/-! ### The rules -/

section Rules
variable {n : Nat} {mk : Word → Word → Word → Instr} {bank : State → Fin 32 → Word}
  {write : State → Fin 32 → Word → State} {change : Word → Fin 32 → Change}

/-- R221 and R222 from the operand shape the loads share: `write` is the write of the bank. -/
theorem loadRule_of_exec (hfields : ∀ o1 o2 o3, (mk o1 o2 o3).fields = fieldsOf n o1 o2 o3)
    (hexec : ∀ o1 o2 o3 s, exec (mk o1 o2 o3) s =
      .next (withRegCell (mk o1 o2 o3) o1 o2 s fun r a => (write s r (s.readData a)).advance))
    (hread : ∀ s d v, bank (write s d v).advance d = v)
    (hframe : ∀ s d v, Completes s (write s d v).advance (change (s.pc + 1) d)) :
    LoadRule n mk bank change := by
  intro s o1 o2 o3
  have hstep := hexec o1 o2 o3 s
  refine ⟨decode_wordOf (hfields ..), fun d a hd ha => ?_,
    raises_of_withRegCell (hfields ..) hstep⟩
  rw [withRegCell_of_is hd ha] at hstep
  exact ⟨_, hstep, hread s d _, hframe s d _⟩

/-- R223 and R224 from the operand shape the constants share: the field is checked by nothing. -/
theorem constantRule_of_exec (hfields : ∀ o1 o2 o3, (mk o1 o2 o3).fields = fieldsOf n o1 o2 o3)
    (hexec : ∀ o1 o2 o3 s, exec (mk o1 o2 o3) s =
      .next (withReg (mk o1 o2 o3) o1 s fun r => (write s r o2).advance))
    (hread : ∀ s d v, bank (write s d v).advance d = v)
    (hframe : ∀ s d v, Completes s (write s d v).advance (change (s.pc + 1) d)) :
    ConstantRule n mk bank change := by
  intro s o1 o2 o3
  have hstep := hexec o1 o2 o3 s
  refine ⟨decode_wordOf (hfields ..), fun d hd => ?_, fun hbad => ?_⟩
  · rw [withReg_of_some (reg?_eq_some_iff.2 hd)] at hstep
    exact ⟨_, hstep, hread s d o2, hframe s d o2⟩
  · rw [withReg_of_none (reg?_eq_none_iff.2 hbad)] at hstep
    exact raises_of_exec (hfields ..) hstep

/-- R225 and R226 from the operand shape the stores share. A canonical memory lists a cell at most
once, so the cell reads what was written to it. -/
theorem storeRule_of_exec (hfields : ∀ o1 o2 o3, (mk o1 o2 o3).fields = fieldsOf n o1 o2 o3)
    (hexec : ∀ o1 o2 o3 s, exec (mk o1 o2 o3) s =
      .next (withRegCell (mk o1 o2 o3) o2 o1 s fun r a => (s.writeData a (bank s r)).advance)) :
    StoreRule n mk bank := by
  intro s o1 o2 o3 hwf
  have hstep := hexec o1 o2 o3 s
  refine ⟨decode_wordOf (hfields ..), fun r a hr ha => ?_,
    raises_of_withRegCell (hfields ..) hstep⟩
  rw [withRegCell_of_is hr ha] at hstep
  obtain ⟨hcell, -⟩ := readData_of_stored hwf a (bank s r)
  exact ⟨_, hstep, hcell, completes_writeData_advance s a _⟩

end Rules

end Sys2Proof.Machine

namespace Sys2Proof.Proofs

open Machine Claim

/-- Settles O22, the load of each bank by the read-after-write rule and the frame of that bank. -/
theorem loadsTakeTheCellUnchanged : Obligations.LoadsTakeTheCellUnchanged :=
  ⟨loadRule_of_exec (fun _ _ _ => rfl) (fun _ _ _ _ => rfl) State.readX_writeX_self
      completes_writeX_advance,
    loadRule_of_exec (fun _ _ _ => rfl) (fun _ _ _ _ => rfl) State.readF_writeF_self
      completes_writeF_advance⟩

/-- Settles O23, the constant of each bank by the read-after-write rule and the frame of that
bank. -/
theorem constantsTakeTheFieldUnchanged : Obligations.ConstantsTakeTheFieldUnchanged :=
  ⟨constantRule_of_exec (fun _ _ _ => rfl) (fun _ _ _ _ => rfl) State.readX_writeX_self
      completes_writeX_advance,
    constantRule_of_exec (fun _ _ _ => rfl) (fun _ _ _ _ => rfl) State.readF_writeF_self
      completes_writeF_advance⟩

/-- Settles O24, both stores from the shape they share. -/
theorem storesReplaceOneCell : Obligations.StoresReplaceOneCell :=
  ⟨storeRule_of_exec (fun _ _ _ => rfl) fun _ _ _ _ => rfl,
    storeRule_of_exec (fun _ _ _ => rfl) fun _ _ _ _ => rfl⟩

end Sys2Proof.Proofs

/-! `SSTR` (`spec/46_string_store.md` R240): the order of its checks and the frame of writing a
slot. -/

namespace Sys2Proof.Machine

open Claim

theorem withSlot_of_none {i : Instr} {o : Word} {s : State} {body : Text → State}
    (h : text? s.strTable o = none) :
    withSlot i o s body = s.raise .stringIndexOutOfRange i := by
  rw [withSlot, h]

/-- The frame of an instruction that writes the slot `k`. -/
theorem completes_writeSlot_advance (s : State) (k : Nat) (t : Text) :
    Completes s (s.writeSlot k t).advance { pc := s.pc + 1, slots := fun j => j = k } where
  frame :=
    { frame_refl s with
      pc := rfl
      slots := fun _ hj => List.getElem?_set_ne (Ne.symm hj)
      slotCount := List.length_set }
  run := rfl
  fr := rfl

section Sstr
variable {s : State} {k : Word} (u2 u3 : Word)

/-- With a pool entry found, the slot number is checked before the length of the entry. -/
theorem exec_sstr_of_entry {t : Text} (h : text? s.pool k = some t) :
    exec (.sstr k u2 u3) s =
      .next (withSlot (.sstr k u2 u3) k s fun _ =>
        if Config.maxTextLen < t.length then s.raise .stringTooLong (.sstr k u2 u3)
        else (s.writeSlot k.toInt.toNat t).advance) := by
  rw [exec, execSstr, h]

/-- With both indices good, only the length of the entry is left to decide. -/
theorem exec_sstr_of_is {n : Fin s.pool.length} (hk : Is k n) (hslot : n.val < s.strTable.length) :
    exec (.sstr k u2 u3) s =
      .next (if Config.maxTextLen < s.pool[n].length then s.raise .stringTooLong (.sstr k u2 u3)
        else (s.writeSlot n.val s.pool[n]).advance) := by
  have hslot' : Is k (⟨n.val, hslot⟩ : Fin s.strTable.length) := hk
  have hn : k.toInt.toNat = n.val := by rw [hk, Int.toNat_natCast]
  rw [exec_sstr_of_entry u2 u3 (text?_of_is hk), withSlot_of_some (text?_of_is hslot'), hn]

/-- A bad index is one fault, whichever of the two tables it is outside. -/
theorem exec_sstr_of_badIndex (h : BadIndex s.pool.length k ∨ BadIndex s.strTable.length k) :
    exec (.sstr k u2 u3) s = .next (s.raise .stringIndexOutOfRange (.sstr k u2 u3)) := by
  cases hp : text? s.pool k with
  | none => rw [exec, execSstr, hp]
  | some t =>
    have hslot : BadIndex s.strTable.length k :=
      h.resolve_left fun hbad => by cases hp.symm.trans (text?_eq_none_iff.2 hbad)
    rw [exec_sstr_of_entry u2 u3 hp, withSlot_of_none (text?_eq_none_iff.2 hslot)]

end Sstr

end Sys2Proof.Machine

namespace Sys2Proof.Proofs

open Machine Claim

/-- Settles O25: with both indices good the length of the entry decides between the copy and its
fault, and a bad index is met before the length is looked at. -/
theorem sstrCopiesThePoolEntry : Obligations.SstrCopiesThePoolEntry := by
  intro s k u2 u3
  refine ⟨decode_wordOf rfl, fun n hk hslot hlen => ?copied, fun hbad => ?badIndex,
    fun n hk hslot hlen => ?tooLong⟩
  case copied =>
    have hstep := exec_sstr_of_is u2 u3 hk hslot
    rw [if_neg (Nat.not_lt.2 hlen)] at hstep
    exact ⟨_, hstep, List.getElem?_set_self hslot, completes_writeSlot_advance s n.val _⟩
  case badIndex => exact raises_of_exec rfl (exec_sstr_of_badIndex u2 u3 hbad)
  case tooLong =>
    have hstep := exec_sstr_of_is u2 u3 hk hslot
    rw [if_pos hlen] at hstep
    exact raises_of_exec rfl hstep

end Sys2Proof.Proofs

/-! `next_token()` (`spec/47_syscall.md` R253, R254, R267): when the scan returns a token, when it
reports the end, and that bytes which arrive later change neither. -/

namespace Sys2Proof.Machine

open Claim

/-! ### Maximal runs -/

section Runs
variable {p : Byte → Bool} {run rest : List Byte}

theorem takeWhile_run_append (hrun : ∀ c ∈ run, p c = true)
    (hrest : ∀ c, rest.head? = some c → p c = false) : (run ++ rest).takeWhile p = run := by
  rw [List.takeWhile_append_of_pos hrun]
  cases rest with
  | nil => simp
  | cons c rest => simp [hrest c rfl]

theorem dropWhile_run_append (hrun : ∀ c ∈ run, p c = true)
    (hrest : ∀ c, rest.head? = some c → p c = false) : (run ++ rest).dropWhile p = rest := by
  rw [List.dropWhile_append_of_pos hrun]
  cases rest with
  | nil => rfl
  | cons c rest => simp [hrest c rfl]

/-- What follows a maximal run does not continue it. -/
theorem head?_dropWhile_eq_some {bytes : List Byte} {c : Byte}
    (h : (bytes.dropWhile p).head? = some c) : p c = false := by
  have hnot := List.head?_dropWhile_not p bytes
  rw [h] at hnot
  simpa using hnot

end Runs

/-! ### Tokens -/

theorem isSpace_eq_false_iff {c : Byte} : isSpace c = false ↔ ¬ Space c := by
  rw [← isSpace_iff, Bool.not_eq_true]

/-- `TokenIs` of a stream given by its unread bytes and its end mark. -/
def TokenAt (ended : Bool) (bytes : List Byte) (w : Text) (n : Nat) : Prop :=
  ∃ spaces rest : List Byte, bytes = spaces ++ (w ++ rest) ∧
    (∀ c ∈ spaces, Space c) ∧ w ≠ [] ∧ (∀ c ∈ w, ¬ Space c) ∧
    (∀ c, rest.head? = some c → Space c) ∧ (rest = [] → ended = true) ∧
    n = spaces.length + w.length

theorem tokenIs_iff_tokenAt {s : State} {w : Text} {n : Nat} :
    TokenIs s w n ↔ TokenAt s.inEnded s.pending w n := Iff.rfl

section Scan
variable {ended : Bool} {bytes : List Byte} {w : Text} {n : Nat}

theorem scanToken_of_tokenAt (h : TokenAt ended bytes w n) :
    scanToken ended bytes = .token w n := by
  obtain ⟨spaces, rest, rfl, hspaces, hne, hw, hrest, hend, rfl⟩ := h
  have hhead (c : Byte) (hc : (w ++ rest).head? = some c) : isSpace c = false := by
    rw [List.head?_append_of_ne_nil w hne] at hc
    exact isSpace_eq_false_iff.2 (hw c (List.mem_of_head? hc))
  have hspaces' (c : Byte) (hc : c ∈ spaces) : isSpace c = true := isSpace_iff.2 (hspaces c hc)
  have hw' (c : Byte) (hc : c ∈ w) : (!isSpace c) = true := by
    rw [isSpace_eq_false_iff.2 (hw c hc), Bool.not_false]
  have hrest' (c : Byte) (hc : rest.head? = some c) : (!isSpace c) = false := by
    rw [isSpace_iff.2 (hrest c hc), Bool.not_true]
  have hdone : ¬ (rest = [] ∧ ended = false) := fun ⟨hnil, he⟩ => by simp [hend hnil] at he
  simp only [scanToken, takeWhile_run_append hspaces' hhead, dropWhile_run_append hspaces' hhead,
    takeWhile_run_append hw' hrest', dropWhile_run_append hw' hrest', if_neg hne, if_neg hdone]

theorem tokenAt_of_scanToken (h : scanToken ended bytes = .token w n) :
    TokenAt ended bytes w n := by
  unfold scanToken at h
  simp only at h
  split at h
  next => split at h <;> cases h
  next hne =>
    split at h
    next => cases h
    next hdone =>
      injection h with hw hn
      subst hw
      refine ⟨_, _, by rw [List.takeWhile_append_dropWhile, List.takeWhile_append_dropWhile],
        fun c hc => isSpace_iff.1 (List.mem_takeWhile_imp hc), hne, fun c hc => ?_,
        fun c hc => ?_, fun hnil => ?_, hn.symm⟩
      · exact isSpace_eq_false_iff.1 (by simpa using List.mem_takeWhile_imp hc)
      · exact isSpace_iff.1 (by simpa using head?_dropWhile_eq_some hc)
      · simpa [hnil] using hdone

/-- R253: the scan returns the token `w` exactly when the rule says so. -/
theorem scanToken_eq_token_iff : scanToken ended bytes = .token w n ↔ TokenAt ended bytes w n :=
  ⟨tokenAt_of_scanToken, scanToken_of_tokenAt⟩

/-- R253: the scan reports the end when that is marked and only whitespace remains. -/
theorem scanToken_eq_ended_iff :
    scanToken ended bytes = .ended n ↔
      ended = true ∧ (∀ c ∈ bytes, Space c) ∧ n = bytes.length := by
  have hnone : (∀ c ∈ bytes, Space c) ↔
      (bytes.dropWhile isSpace).takeWhile (fun c => !isSpace c) = [] := by
    simp only [← isSpace_iff, ← List.dropWhile_eq_nil_iff]
    exact ⟨fun h => by rw [h, List.takeWhile_nil], dropWhile_isSpace_eq_nil⟩
  unfold scanToken
  simp only
  split
  next htok =>
    have hlen : (bytes.takeWhile isSpace).length = bytes.length := by
      have := dropWhile_length_le isSpace bytes
      rwa [dropWhile_isSpace_eq_nil htok, List.length_nil, Nat.add_zero] at this
    cases ended <;> simp [and_iff_right (hnone.2 htok), hlen, eq_comm]
  next htok =>
    have hspaces := mt hnone.1 htok
    split <;> simp [hspaces]

/-- R267: a token that is complete without an end mark is ended by a whitespace byte, so what comes
after that byte is not looked at. -/
theorem TokenAt.append (h : TokenAt false bytes w n) (ended : Bool) (late : List Byte) :
    TokenAt ended (bytes ++ late) w n := by
  obtain ⟨spaces, rest, rfl, hspaces, hne, hw, hrest, hend, hn⟩ := h
  have hrest_ne : rest ≠ [] := fun hnil => Bool.false_ne_true (hend hnil)
  refine ⟨spaces, rest ++ late, by simp only [List.append_assoc], hspaces, hne, hw, fun c hc => ?_,
    fun hnil => absurd (List.append_eq_nil_iff.1 hnil).1 hrest_ne, hn⟩
  rw [List.head?_append_of_ne_nil rest hrest_ne] at hc
  exact hrest c hc

end Scan

theorem nextToken_eq_token_iff {s : State} {w : Text} {n : Nat} :
    s.nextToken = .token w n ↔ TokenIs s w n :=
  scanToken_eq_token_iff.trans tokenIs_iff_tokenAt.symm

theorem nextToken_eq_ended_iff {s : State} {n : Nat} : s.nextToken = .ended n ↔ NoToken s n :=
  scanToken_eq_ended_iff

end Sys2Proof.Machine

namespace Sys2Proof.Proofs

open Machine Claim

/-- Settles O36: the three answers of the scan, each characterised on its own. -/
theorem nextTokenAsSpecified : Obligations.NextTokenAsSpecified :=
  fun _ => ⟨fun _ _ => nextToken_eq_token_iff, fun _ => nextToken_eq_ended_iff,
    nextToken_eq_blocked_iff⟩

/-- Settles O37: a complete token is one of the longer stream too. -/
theorem laterInputChangesNoToken : Obligations.LaterInputChangesNoToken :=
  fun _ late ended _ _ h => scanToken_of_tokenAt ((tokenAt_of_scanToken h).append ended late)

end Sys2Proof.Proofs

/-! The services of the syscall unit (`spec/47_syscall.md` R250 to R263, R268 to R270): operand
checks, what a read does with its token, what a write emits, and the frames of both. -/

namespace Sys2Proof.Machine

open Claim

/-- R250: `CALL` with the number of a service runs that service. -/
theorem exec_call_number (v : Service) (x u3 : Word) (s : State) :
    exec (.call v.number x u3) s = .next (runService (.call v.number x u3) x s v) := by
  cases v <;> rfl

theorem decode_call (code x u3 : Word) :
    decode (wordOf 40 code x u3) = .ok (.call code x u3) := decode_wordOf rfl

/-! ### Operand checks -/

/-- R255 to R257, R259 to R261: a service of a register checks its index before all else. -/
theorem raises_of_withReg_badIndex {code x u3 : Word} {s : State} {body : Fin 32 → State}
    (hstep : exec (.call code x u3) s = .next (withReg (.call code x u3) x s body))
    (h : BadIndex 32 x) :
    Raises (.call code x u3) s .operandOutOfRange (fieldsOf 40 code x u3) := by
  rw [withReg_of_none (reg?_eq_none_iff.2 h)] at hstep
  exact raises_of_exec rfl hstep

/-- R258, R263: a service of a slot checks its number before all else. -/
theorem raises_of_withSlot_badIndex {code x u3 : Word} {s : State} {body : Text → State}
    (hstep : exec (.call code x u3) s = .next (withSlot (.call code x u3) x s body))
    (h : BadIndex s.strTable.length x) :
    Raises (.call code x u3) s .stringIndexOutOfRange (fieldsOf 40 code x u3) := by
  rw [withSlot_of_none (text?_eq_none_iff.2 h)] at hstep
  exact raises_of_exec rfl hstep

/-! ### Reads -/

section Reads
variable {i : Instr} {s s' : State} {store : Text → State → Except FaultKind State} {w : Text}
  {n : Nat} {k : FaultKind}

theorem readService_of_stored (h : TokenIs s w n) (hstore : store w (s.consume n) = .ok s') :
    readService i s store = s'.advance := by
  simp only [readService, nextToken_eq_token_iff.2 h, hstore]

theorem readService_of_rejected (h : TokenIs s w n) (hstore : store w (s.consume n) = .error k) :
    readService i s store = (s.consume n).raise k i := by
  simp only [readService, nextToken_eq_token_iff.2 h, hstore]

theorem readService_of_noToken (h : NoToken s n) :
    readService i s store = (s.consume n).raise .ioParseError i := by
  simp only [readService, nextToken_eq_ended_iff.2 h]

/-- R270: a fault after a read leaves the bytes consumed. -/
theorem raises_of_exec_consume {q : Fields} (hq : i.fields = q)
    (h : exec i s = .next ((s.consume n).raise k i)) : Raises i s k q n :=
  ⟨_, h, hq ▸ entersFault_takeFault s n k (some i.fields)⟩

/-- The frame of an update that is made after the token has been consumed. -/
theorem completes_of_consume {t : State} {c : Change} (h : Completes (s.consume n) t c) :
    Completes s t { c with consumed := n + c.consumed } where
  frame := { h.frame with inPos := h.frame.inPos.trans (Nat.add_assoc ..) }
  run := h.run
  fr := h.fr

end Reads

/-- R255 to R257 from the shape the three share: `store` writes what `parse` makes of the token. -/
theorem readRegRule_of_exec {v : Service} {parse : Text → Option Word}
    {bank : State → Fin 32 → Word} {write : State → Fin 32 → Word → State}
    {change : Word → Fin 32 → Nat → Change}
    (store : Fin 32 → Text → State → Except FaultKind State)
    (hexec : ∀ i x s, runService i x s v = withReg i x s fun r => readService i s (store r))
    (hstored : ∀ r w s u, parse w = some u → store r w s = .ok (write s r u))
    (hrejected : ∀ r w s, parse w = none → store r w s = .error .ioParseError)
    (hread : ∀ s r u, bank (write s r u).advance r = u)
    (hframe : ∀ s n r u, Completes s (write (s.consume n) r u).advance (change (s.pc + 1) r n)) :
    ReadRegRule v.number parse bank change := by
  intro s x u3
  have hstep := exec_call_number v x u3 s
  rw [hexec] at hstep
  refine ⟨decode_call .., fun r hx => ?goodIndex, raises_of_withReg_badIndex hstep⟩
  rw [withReg_of_some (reg?_eq_some_iff.2 hx)] at hstep
  refine ⟨fun w n u htok hu => ?stored, fun w n htok hnone => ?rejected, fun n hno => ?noToken⟩
  case stored =>
    rw [readService_of_stored htok (hstored r w _ u hu)] at hstep
    exact ⟨_, hstep, hread .., hframe ..⟩
  case rejected =>
    rw [readService_of_rejected htok (hrejected r w _ hnone)] at hstep
    exact raises_of_exec_consume rfl hstep
  case noToken =>
    rw [readService_of_noToken hno] at hstep
    exact raises_of_exec_consume rfl hstep

/-- R266 with R257: the four boolean tokens as the words they are stored as. -/
theorem map_boolWord_parseBool (w : Text) :
    (parseBool w).map boolWord =
      if w = [0x31] ∨ w = [0x74, 0x72, 0x75, 0x65] then some 1
      else if w = [0x30] ∨ w = [0x66, 0x61, 0x6C, 0x73, 0x65] then some 0 else none := by
  unfold parseBool
  split_ifs <;> rfl

/-- R258 on a slot number in range: what is left to decide is how the token came and how long it
is. -/
theorem exec_readString_of_is {s : State} {x : Word} {k : Fin s.strTable.length} (hk : Is x k)
    (u3 : Word) :
    exec (.call 3 x u3) s = .next (readService (.call 3 x u3) s fun t s' =>
      if Config.maxTextLen < t.length then .error .stringTooLong else .ok (s'.writeSlot k t)) := by
  have hindex : x.toInt.toNat = k.val := by rw [hk, Int.toNat_natCast]
  have hstep := exec_call_number .readString x u3 s
  rw [runService, readStringService, withSlot_of_some (text?_of_is hk), hindex] at hstep
  exact hstep

/-! ### Writes -/

/-- The frame of a write of the text `t` (R252). -/
theorem completes_emit_advance (s : State) (t : Text) :
    Completes s (s.emit t).advance { pc := s.pc + 1, emitted := t ++ [0x0A] } where
  frame := { frame_refl s with pc := rfl, out := List.append_assoc .. }
  run := rfl
  fr := rfl

/-- R259 and R260 from the shape the two share. -/
theorem writeRegRule_of_exec {v : Service} {bank : State → Fin 32 → Word} {render : Word → Text}
    (hexec : ∀ i x s,
      runService i x s v = withReg i x s fun r => (s.emit (render (bank s r))).advance) :
    WriteRegRule v.number bank render := by
  intro s x u3
  have hstep := exec_call_number v x u3 s
  rw [hexec] at hstep
  refine ⟨decode_call .., fun r hx => ?_, raises_of_withReg_badIndex hstep⟩
  rw [withReg_of_some (reg?_eq_some_iff.2 hx)] at hstep
  exact ⟨_, hstep, completes_emit_advance s _⟩

/-- R261: `CALL 6` on a register that holds the truth value `c`. -/
theorem exec_writeBool_completes {s : State} {x : Word} {r : Fin 32} (hx : Is x r) (c : Bool)
    (hc : s.readX r = boolWord c) (u3 : Word) :
    ∃ t, exec (.call 6 x u3) s = .next t ∧
      Completes s t { pc := s.pc + 1, emitted := boolText c ++ [0x0A] } :=
  ⟨_, exec_call_writeBool (reg?_eq_some_iff.2 hx) (hc ▸ truthOf_boolWord c) u3,
    completes_emit_advance s _⟩

theorem exec_writeBool_of_no_boolean {s : State} {x : Word} {r : Fin 32} (hx : Is x r)
    (h : truthOf (s.readX r) = none) (u3 : Word) :
    exec (.call 6 x u3) s = .next (s.raise .invalidBooleanValue (.call 6 x u3)) := by
  have hstep := exec_call_number .writeBool x u3 s
  rw [runService, writeBoolService, withReg_of_some (reg?_eq_some_iff.2 hx), h] at hstep
  exact hstep

end Sys2Proof.Machine

namespace Sys2Proof.Proofs

open Machine Claim

/-- Settles O27, from the shape of the register reads. -/
theorem readIntService : Obligations.ReadIntService :=
  readRegRule_of_exec (v := .readInt) (write := State.writeX) _ (fun _ _ _ => rfl)
    (fun _ _ _ _ h => by rw [h]) (fun _ _ _ h => by rw [h]) State.readX_writeX_self
    fun s n r u => completes_of_consume (completes_writeX_advance (s.consume n) r u)

/-- Settles O28, from the shape of the register reads. -/
theorem readFloatService : Obligations.ReadFloatService :=
  readRegRule_of_exec (v := .readFloat) (write := State.writeF) _ (fun _ _ _ => rfl)
    (fun _ _ _ _ h => by rw [h]) (fun _ _ _ h => by rw [h]) State.readF_writeF_self
    fun s n r u => completes_of_consume (completes_writeF_advance (s.consume n) r u)

/-- Settles O29, from the shape of the register reads, with `parseBool` as the parser of words. -/
theorem readBoolService : Obligations.ReadBoolService := by
  unfold Obligations.ReadBoolService
  simp only [← map_boolWord_parseBool]
  refine readRegRule_of_exec (v := .readBool) (write := State.writeX) _ (fun _ _ _ => rfl)
    (fun _ _ _ _ h => ?_) (fun _ _ _ h => ?_) State.readX_writeX_self
    fun s n r u => completes_of_consume (completes_writeX_advance (s.consume n) r u)
  · obtain ⟨b, hb, rfl⟩ := Option.map_eq_some_iff.1 h
    rw [hb]
  · rw [Option.map_eq_none_iff.1 h]

/-- Settles O30: with a slot number in range the token and its length decide. -/
theorem readStringService : Obligations.ReadStringService := by
  refine fun s x u3 => ⟨decode_call .., fun k hk => ?goodSlot,
    raises_of_withSlot_badIndex (exec_call_number .readString x u3 s)⟩
  have hstep := exec_readString_of_is hk u3
  refine ⟨fun w n htok hlen => ?stored, fun w n htok hlen => ?tooLong, fun n hno => ?noToken⟩
  case stored =>
    rw [readService_of_stored htok (if_neg (Nat.not_lt.2 hlen))] at hstep
    exact ⟨_, hstep, List.getElem?_set_self k.isLt,
      completes_of_consume (completes_writeSlot_advance (s.consume n) k w)⟩
  case tooLong =>
    rw [readService_of_rejected htok (if_pos hlen)] at hstep
    exact raises_of_exec_consume rfl hstep
  case noToken =>
    rw [readService_of_noToken hno] at hstep
    exact raises_of_exec_consume rfl hstep

/-- Settles O32, from the shape of the register writes. -/
theorem writeIntService : Obligations.WriteIntService :=
  writeRegRule_of_exec (v := .writeInt) fun _ _ _ => rfl

/-- Settles O33, from the shape of the register writes. -/
theorem writeFloatService : Obligations.WriteFloatService :=
  writeRegRule_of_exec (v := .writeFloat) fun _ _ _ => rfl

/-- Settles O34, by the truth value of the register. -/
theorem writeBoolService : Obligations.WriteBoolService :=
  fun s x u3 => ⟨decode_call .., fun _ hx htrue => exec_writeBool_completes hx true htrue u3,
    fun _ hx hfalse => exec_writeBool_completes hx false hfalse u3,
    fun _ hx h1 h0 => raises_of_exec rfl
      (exec_writeBool_of_no_boolean hx (truthOf_eq_none_iff.2 ⟨h0, h1⟩) u3),
    raises_of_withReg_badIndex (exec_call_number .writeBool x u3 s)⟩

/-- Settles O35: the text of the slot is what is emitted. -/
theorem writeStringService : Obligations.WriteStringService := by
  refine fun s x u3 => ⟨decode_call .., fun k hk => ?_,
    raises_of_withSlot_badIndex (exec_call_number .writeString x u3 s)⟩
  have hstep := exec_call_number .writeString x u3 s
  rw [runService, Machine.writeStringService, withSlot_of_some (text?_of_is hk)] at hstep
  exact ⟨_, hstep, completes_emit_advance s _⟩

end Sys2Proof.Proofs

/-! The faults of the handlers (`spec/60_exceptions.md` R280 to R295): which kinds a handler can
raise, and after how much input. -/

namespace Sys2Proof.Machine

open Claim

/-- The kinds the handler of `i` can raise when `n` bytes of input have been consumed: the two kinds
of the step itself never, `InvalidSyscall` for a bad code only (R269), and after a token has been
consumed only `IOParseError` and `StringTooLong` (R270). -/
def HandlerFault (i : Instr) (n : Nat) : FaultKind → Prop
  | .invalidOpcode | .instructionAddressOutOfRange => False
  | .invalidSyscall => n = 0 ∧ BadCode i
  | .ioParseError | .stringTooLong => True
  | .operandOutOfRange | .dataAddressOutOfRange | .stringIndexOutOfRange | .divisionByZero
  | .invalidBooleanValue => n = 0

/-- If `t` is Faulted, it is the fault entry of `i` at `s` with a kind its handler can raise. -/
def FaultsAsHandler (i : Instr) (s t : State) : Prop :=
  t.run = .faulted → ∃ n k, t = (s.consume n).raise k i ∧ HandlerFault i n k

section Kinds
variable {i : Instr} {n : Nat}

theorem HandlerFault.consumed {k : FaultKind} (h : HandlerFault i n k) (hn : n ≠ 0) :
    k = .ioParseError ∨ k = .stringTooLong := by
  cases k with
  | ioParseError => exact .inl rfl
  | stringTooLong => exact .inr rfl
  | invalidOpcode | instructionAddressOutOfRange => exact h.elim
  | invalidSyscall =>
    obtain ⟨hzero, _⟩ := h
    exact absurd hzero hn
  | operandOutOfRange | dataAddressOutOfRange | stringIndexOutOfRange | divisionByZero
  | invalidBooleanValue => exact absurd h hn

theorem HandlerFault.ne_instructionAddress {k : FaultKind} (h : HandlerFault i n k) :
    k ≠ .instructionAddressOutOfRange := by
  rintro rfl
  exact h

end Kinds

section Shapes
variable {i : Instr} {s t : State}

theorem FaultsAsHandler.of_run (hs : s.run ≠ .faulted) (h : t.run = s.run) :
    FaultsAsHandler i s t :=
  fun ht => absurd (h ▸ ht) hs

theorem FaultsAsHandler.raise {k : FaultKind} (hk : HandlerFault i 0 k) :
    FaultsAsHandler i s (s.raise k i) :=
  fun _ => ⟨0, k, rfl, hk⟩

theorem FaultsAsHandler.raise_consume {n : Nat} {k : FaultKind} (hk : HandlerFault i n k) :
    FaultsAsHandler i s ((s.consume n).raise k i) :=
  fun _ => ⟨n, k, rfl, hk⟩

theorem faultsAsHandler_withReg {o : Word} {body : Fin 32 → State}
    (h : ∀ r, FaultsAsHandler i s (body r)) : FaultsAsHandler i s (withReg i o s body) := by
  rcases withReg_cases i o s body with ⟨r, _, e⟩ | ⟨_, e⟩ <;> rw [e]
  · exact h r
  · exact .raise rfl

theorem faultsAsHandler_withRegs3 {o1 o2 o3 : Word} {body : Fin 32 → Fin 32 → Fin 32 → State}
    (h : ∀ d a b, FaultsAsHandler i s (body d a b)) :
    FaultsAsHandler i s (withRegs3 i o1 o2 o3 s body) := by
  rcases withRegs3_cases i o1 o2 o3 s body with ⟨d, a, b, _, _, _, e⟩ | ⟨_, e⟩ <;> rw [e]
  · exact h d a b
  · exact .raise rfl

theorem faultsAsHandler_withRegCell {o addr : Word}
    {body : Fin 32 → Fin Config.dataCapacity → State}
    (h : ∀ r a, FaultsAsHandler i s (body r a)) :
    FaultsAsHandler i s (withRegCell i o addr s body) := by
  rcases withRegCell_cases i o addr s body with ⟨r, a, _, _, e⟩ | ⟨_, e⟩ | ⟨_, _, e⟩ <;> rw [e]
  · exact h r a
  · exact .raise rfl
  · exact .raise rfl

theorem faultsAsHandler_withSlot {o : Word} {body : Text → State}
    (h : ∀ w, FaultsAsHandler i s (body w)) : FaultsAsHandler i s (withSlot i o s body) := by
  rcases withSlot_cases i o s body with ⟨w, _, e⟩ | ⟨_, e⟩ <;> rw [e]
  · exact h w
  · exact .raise rfl

theorem faultsAsHandler_withRegSlots {o1 o2 o3 : Word} {body : Fin 32 → Text → Text → State}
    (h : ∀ d w u, FaultsAsHandler i s (body d w u)) :
    FaultsAsHandler i s (withRegSlots i o1 o2 o3 s body) :=
  faultsAsHandler_withReg fun d => faultsAsHandler_withSlot fun w =>
    faultsAsHandler_withSlot fun u => h d w u

theorem faultsAsHandler_branchOn (hs : s.run ≠ .faulted) (sense : Bool) (o off : Word) :
    FaultsAsHandler i s (branchOn sense i o off s) :=
  faultsAsHandler_withReg fun r => by
    split
    · exact .raise rfl
    · split
      · exact .of_run hs rfl
      · exact .of_run hs rfl

/-- A read that consumes its token faults only by the two kinds of R270. -/
theorem faultsAsHandler_readService (hs : s.run ≠ .faulted)
    {store : Text → State → Except FaultKind State}
    (hok : ∀ w u u', store w u = .ok u' → u'.run = u.run)
    (herror : ∀ w u k n, store w u = .error k → HandlerFault i n k) :
    FaultsAsHandler i s (readService i s store) := by
  unfold readService
  split
  next => exact .of_run hs rfl
  next => exact .raise_consume trivial
  next w n _ =>
    split
    next u hu => exact .of_run hs (hok w (s.consume n) u hu)
    next k hk => exact .raise_consume (herror w _ k n hk)

theorem faultsAsHandler_runService (hs : s.run ≠ .faulted) (x : Word) (v : Service) :
    FaultsAsHandler i s (runService i x s v) := by
  cases v with
  | readInt | readFloat | readBool =>
    refine faultsAsHandler_withReg fun r =>
      faultsAsHandler_readService hs (fun w u u' h => ?_) fun w u k n h => ?_
    all_goals split at h <;> cases h
    · rfl
    · trivial
  | readString =>
    refine faultsAsHandler_withSlot fun _ =>
      faultsAsHandler_readService hs (fun w u u' h => ?_) fun w u k n h => ?_
    all_goals split at h <;> cases h
    · rfl
    · trivial
  | writeInt | writeFloat => exact faultsAsHandler_withReg fun r => .of_run hs rfl
  | writeBool =>
    refine faultsAsHandler_withReg fun r => ?_
    split
    · exact .of_run hs rfl
    · exact .raise rfl
  | writeString => exact faultsAsHandler_withSlot fun w => .of_run hs rfl

theorem faultsAsHandler_sstr (hs : s.run ≠ .faulted) {k u2 u3 : Word}
    (h : execSstr k u2 u3 s = .next t) : FaultsAsHandler (.sstr k u2 u3) s t := by
  cases next_inj h
  split
  · exact .raise rfl
  · refine faultsAsHandler_withSlot fun _ => ?_
    split
    · exact .raise trivial
    · exact .of_run hs rfl

/-- R269: the codes outside 0 to 7 are those of no service. -/
theorem service?_eq_none_iff {code : Word} : service? code = none ↔ BadIndex 8 code := by
  constructor
  · intro hnone
    refine Classical.byContradiction fun hgood => ?_
    have hin : isCode code = true := by
      rw [BadIndex] at hgood
      exact inRange_iff (n := 8).2 (by omega)
    obtain ⟨v, hv⟩ := exists_service_of_isCode hin
    cases hnone.symm.trans hv
  · intro hbad
    cases hv : service? code with
    | none => rfl
    | some v =>
      rw [eq_number_of_service? hv] at hbad
      cases v <;> revert hbad <;> unfold BadIndex <;> decide

/-- What every handler does when it faults. -/
theorem exec_faultsAsHandler (hs : s.run ≠ .faulted) (h : exec i s = .next t) :
    FaultsAsHandler i s t := by
  cases i with
  | halt u1 u2 u3 => cases next_inj h; exact fun ht => by cases ht
  | noop u1 u2 u3 | jump addr u2 u3 => cases next_inj h; exact .of_run hs rfl
  | addi d a b | subi d a b | muli d a b | equi d a b | neqi d a b | lthi d a b | ltei d a b
  | gthi d a b | gtei d a b | equf d a b | neqf d a b | lthf d a b | ltef d a b | gthf d a b
  | gtef d a b =>
    cases next_inj h
    exact faultsAsHandler_withRegs3 fun _ _ _ => .of_run hs rfl
  | divi d a b | modi d a b =>
    cases next_inj h
    refine faultsAsHandler_withRegs3 fun _ _ _ => ?_
    split
    · exact .raise rfl
    · exact .of_run hs rfl
  | addf d a b | subf d a b | mulf d a b | divf d a b | modf d a b =>
    cases next_inj h
    exact faultsAsHandler_withRegs3 fun _ _ _ => .of_run hs (State.writeFloat_run ..)
  | equs d j k | neqs d j k | lths d j k | ltes d j k | gths d j k | gtes d j k =>
    cases next_inj h
    exact faultsAsHandler_withRegSlots fun _ _ _ => .of_run hs rfl
  | botb r off u3 | bofb r off u3 => cases next_inj h; exact faultsAsHandler_branchOn hs _ _ _
  | ldwi d addr u3 | ldwf d addr u3 | stwi addr r u3 | stwf addr r u3 =>
    cases next_inj h
    exact faultsAsHandler_withRegCell fun _ _ => .of_run hs rfl
  | ldii d c u3 | ldif d c u3 =>
    cases next_inj h
    exact faultsAsHandler_withReg fun _ => .of_run hs rfl
  | sstr k u2 u3 => exact faultsAsHandler_sstr hs h
  | call code x u3 =>
    cases next_inj h
    split
    next hnone => exact .raise ⟨rfl, service?_eq_none_iff.1 hnone⟩
    next v _ => exact faultsAsHandler_runService hs x v

end Shapes

theorem exec_call_of_badCode {code : Word} (h : BadIndex 8 code) (x u3 : Word) (s : State) :
    exec (.call code x u3) s = .next (s.raise .invalidSyscall (.call code x u3)) := by
  rw [exec, execCall, service?_eq_none_iff.2 h]

end Sys2Proof.Machine

namespace Sys2Proof.Proofs

open Machine Claim

/-- Settles O26: the one handler that raises `InvalidSyscall` is that of `CALL` with a bad code. -/
theorem onlyEightServiceCodes : Obligations.OnlyEightServiceCodes := by
  refine fun s code x u3 hs => ⟨fun hbad => raises_of_exec rfl (exec_call_of_badCode hbad x u3 s),
    fun hgood t h ht hkind => ?_⟩
  obtain ⟨n, k, rfl, hk⟩ := exec_faultsAsHandler hs h ht
  cases (hkind : some k = _)
  obtain ⟨_, hbad⟩ := hk
  exact hgood hbad

/-- Settles O49, by the three ways a step can fault: no word fetched, a word that is no instruction,
or a fault of the handler. -/
theorem faultsArePrecise : Obligations.FaultsArePrecise := by
  intro s t hr h ht
  rcases step_cases h with ⟨hne, _⟩ | ⟨_, _, rfl⟩ | ⟨_, w, e, hf, _, rfl⟩ | ⟨_, w, i, hf, hd, hx⟩
  · exact absurd hr hne
  · exact ⟨_, _, _, entersFault_takeFault s 0 .instructionAddressOutOfRange none,
      fun h0 => absurd rfl h0, by simp, by simp⟩
  · obtain ⟨a, ha, rfl⟩ := fetch_eq_some hf
    refine ⟨_, _, _, entersFault_takeFault s 0 .invalidOpcode (some (splitWord _)),
      fun h0 => absurd rfl h0, by simp, ?_⟩
    rintro _ ⟨⟩
    exact ⟨a, ha, (joinFields_splitWord _).symm⟩
  · obtain ⟨a, ha, rfl⟩ := fetch_eq_some hf
    obtain ⟨n, k, rfl, hk⟩ := exec_faultsAsHandler (by simp [hr]) hx ht
    refine ⟨_, _, _, entersFault_takeFault s n k (some i.fields), hk.consumed,
      by simp [hk.ne_instructionAddress], ?_⟩
    rintro _ ⟨⟩
    exact ⟨a, ha, (encode_of_decode hd).symm⟩

end Sys2Proof.Proofs

/-! Decimal literals (`spec/47_syscall.md` R262, R264): signs, digits and their value, the integer
literals, and the canonical decimal text. -/

namespace Sys2Proof.Machine

open Claim

/-! ### Digits -/

theorem isDigit_iff {c : Byte} : isDigit c = true ↔ Digit c := by
  simp [isDigit, Digit]

theorem isDigits_iff {t : Text} : isDigits t = true ↔ t ≠ [] ∧ ∀ d ∈ t, Digit d := by
  simp [isDigits, isDigit_iff]

/-- One more digit at the low end. -/
theorem decimalValue_append_singleton (t : Text) (c : Byte) :
    decimalValue (t ++ [c]) = decimalValue t * 10 + (c.toNat - 0x30) := by
  simp only [decimalValue, List.reverse_append, List.reverse_singleton, List.singleton_append,
    List.map_cons, Nat.ofDigits_cons]
  omega

theorem digitsVal_eq (t : Text) : digitsVal t = decimalValue t := by
  induction t using List.reverseRecOn with
  | nil => rfl
  | append_singleton t c ih =>
    rw [decimalValue_append_singleton, ← ih, digitsVal, List.foldl_append]
    rfl

/-! ### Signs -/

theorem takeSign_cons (c : Byte) (t : Text) :
    takeSign (c :: t) =
      if c = 0x2D then (true, t) else if c = 0x2B then (false, t) else (false, c :: t) := rfl

/-- A sign is taken off whatever does not itself begin with one. -/
theorem takeSign_append {sgn body : Text} {neg : Bool} (hsgn : Sign sgn neg)
    (hbody : ∀ c, body.head? = some c → c ≠ 0x2D ∧ c ≠ 0x2B) :
    takeSign (sgn ++ body) = (neg, body) := by
  rcases hsgn with ⟨rfl, rfl⟩ | ⟨rfl, rfl⟩ | ⟨rfl, rfl⟩
  · cases body with
    | nil => rfl
    | cons c body =>
      obtain ⟨hminus, hplus⟩ := hbody c rfl
      rw [List.nil_append, takeSign_cons, if_neg hminus, if_neg hplus]
  · rfl
  · rfl

/-- Every token is what its sign and the rest of it spell. -/
theorem exists_sign (t : Text) : ∃ sgn, Sign sgn (takeSign t).1 ∧ t = sgn ++ (takeSign t).2 := by
  cases t with
  | nil => exact ⟨[], .inl ⟨rfl, rfl⟩, rfl⟩
  | cons c t =>
    rw [takeSign_cons]
    split_ifs with hminus hplus
    · exact ⟨[0x2D], .inr (.inr ⟨rfl, rfl⟩), by rw [hminus]; rfl⟩
    · exact ⟨[0x2B], .inr (.inl ⟨rfl, rfl⟩), by rw [hplus]; rfl⟩
    · exact ⟨[], .inl ⟨rfl, rfl⟩, rfl⟩

theorem ne_sign_of_digit {c : Byte} (h : Digit c) : c ≠ 0x2D ∧ c ≠ 0x2B := by
  constructor <;> rintro rfl <;> exact absurd h.1 (by decide)

/-- A run of digits does not begin with a sign. -/
theorem head?_ne_sign_of_digits {ds : Text} (h : ∀ d ∈ ds, Digit d) (c : Byte)
    (hc : ds.head? = some c) : c ≠ 0x2D ∧ c ≠ 0x2B :=
  ne_sign_of_digit (h c (List.mem_of_head? hc))

/-! ### Integer literals -/

/-- The number that a sign and a run of digits spell. -/
def signedValue (neg : Bool) (ds : Text) : Int :=
  if neg then -(decimalValue ds : Int) else decimalValue ds

theorem toInt_wrap32 {z : Int} (hlo : -2147483648 ≤ z) (hhi : z ≤ 2147483647) :
    (wrap32 z).toInt = z := by
  rw [wrap32, BitVec.toInt_ofInt, Int.bmod_def]
  omega

/-- R264 on the two parts of a token that its sign separates. -/
theorem parseInt_eq_some_iff {t : Text} {v : Word} :
    parseInt t = some v ↔ ((takeSign t).2 ≠ [] ∧ ∀ d ∈ (takeSign t).2, Digit d) ∧
      v.toInt = signedValue (takeSign t).1 (takeSign t).2 := by
  have hval : (if (takeSign t).1 then -(digitsVal (takeSign t).2 : Int)
      else digitsVal (takeSign t).2) = signedValue (takeSign t).1 (takeSign t).2 := by
    rw [digitsVal_eq, signedValue]
  simp only [parseInt, hval, isDigits_iff, Option.ite_none_right_eq_some, Option.some.injEq]
  constructor
  · rintro ⟨⟨hdigits, hlo, hhi⟩, rfl⟩
    exact ⟨hdigits, toInt_wrap32 hlo hhi⟩
  · rintro ⟨hdigits, hv⟩
    have hlo := BitVec.le_toInt v
    have hhi := BitVec.toInt_lt (x := v)
    rw [← hv]
    exact ⟨⟨hdigits, by omega, by omega⟩, BitVec.ofInt_toInt⟩

/-- R264: the parser accepts the integer literals, with their values, and nothing else. -/
theorem parseInt_iff {t : Text} {v : Word} :
    parseInt t = some v ↔ ∃ (sgn ds : Text) (neg : Bool), Sign sgn neg ∧ ds ≠ [] ∧
      (∀ d ∈ ds, Digit d) ∧ t = sgn ++ ds ∧ v.toInt = signedValue neg ds := by
  rw [parseInt_eq_some_iff]
  constructor
  · rintro ⟨⟨hne, hdigits⟩, hv⟩
    obtain ⟨sgn, hsgn, ht⟩ := exists_sign t
    exact ⟨sgn, _, _, hsgn, hne, hdigits, ht, hv⟩
  · rintro ⟨sgn, ds, neg, hsgn, hne, hdigits, rfl, hv⟩
    rw [takeSign_append hsgn (head?_ne_sign_of_digits hdigits)]
    exact ⟨⟨hne, hdigits⟩, hv⟩

/-! ### Decimal text -/

/-- The byte of the digit `d`. -/
def digitByte (d : Nat) : Byte := BitVec.ofNat 8 (0x30 + d)

/-- The decimal digits of `n` from the low end, those of 0 being a single 0 (R262). -/
def lowDigits (n : Nat) : List Nat := if n = 0 then [0] else Nat.digits 10 n

/-- The decimal text of a magnitude, R262. -/
def decimalText (n : Nat) : Text := (lowDigits n).reverse.map digitByte

theorem toNat_digitByte {d : Nat} (h : d < 10) : (digitByte d).toNat = 0x30 + d := by
  rw [digitByte, BitVec.toNat_ofNat]
  omega

theorem lowDigits_ne_nil (n : Nat) : lowDigits n ≠ [] := by
  unfold lowDigits
  split_ifs with h
  · exact List.cons_ne_nil _ _
  · exact Nat.digits_ne_nil_iff_ne_zero.2 h

theorem lowDigits_lt (n : Nat) : ∀ d ∈ lowDigits n, d < 10 := by
  unfold lowDigits
  split_ifs
  · simp
  · exact fun d => Nat.digits_lt_base (by decide)

theorem ofDigits_lowDigits (n : Nat) : Nat.ofDigits 10 (lowDigits n) = n := by
  unfold lowDigits
  split_ifs with h
  · rw [h]; rfl
  · exact Nat.ofDigits_digits 10 n

theorem lowDigits_length_le {n k : Nat} (hn : n < 10 ^ (k + 1)) :
    (lowDigits n).length ≤ k + 1 := by
  unfold lowDigits
  split_ifs
  · simp
  · exact (Nat.digits_length_le_iff (by decide) n).2 hn

theorem lowDigits_of_lt {n : Nat} (h : n < 10) : lowDigits n = [n] := by
  unfold lowDigits
  split_ifs with h0
  · rw [h0]
  · exact Nat.digits_of_lt 10 n h0 h

theorem lowDigits_of_ge {n : Nat} (h : 10 ≤ n) :
    lowDigits n = n % 10 :: lowDigits (n / 10) := by
  rw [lowDigits, lowDigits, if_neg (by omega), if_neg (by omega)]
  exact Nat.digits_def' (by decide) (by omega)

/-- `decDigits` with enough fuel gives the decimal text. -/
theorem decDigits_eq {fuel n : Nat} (h : n < 10 ^ (fuel + 1)) :
    decDigits (fuel + 1) n = decimalText n := by
  induction fuel generalizing n with
  | zero =>
    have hn : n < 10 := h
    rw [decDigits, if_pos hn, decimalText, lowDigits_of_lt hn]
    rfl
  | succ fuel ih =>
    rw [decDigits, decimalText]
    split_ifs with hn
    · rw [lowDigits_of_lt hn]
      rfl
    · have hdiv : n / 10 < 10 ^ (fuel + 1) := by
        rw [pow_succ] at h
        omega
      rw [lowDigits_of_ge (Nat.le_of_not_lt hn), ih hdiv, List.reverse_cons, List.map_append]
      rfl

theorem decimalText_digits (n : Nat) : ∀ c ∈ decimalText n, Digit c := by
  intro c hc
  obtain ⟨d, hd, rfl⟩ := List.mem_map.1 hc
  have hlt := lowDigits_lt n d (List.mem_reverse.1 hd)
  rw [Digit, toNat_digitByte hlt]
  omega

theorem decimalText_ne_nil (n : Nat) : decimalText n ≠ [] := by
  simpa [decimalText] using lowDigits_ne_nil n

theorem decimalValue_decimalText (n : Nat) : decimalValue (decimalText n) = n := by
  have hdigit (d : Nat) (hd : d ∈ lowDigits n) :
      ((fun c => c.toNat - 0x30) ∘ digitByte) d = id d := by
    rw [Function.comp_apply, toNat_digitByte (lowDigits_lt n d hd), Nat.add_sub_cancel_left, id]
  rw [decimalValue, decimalText, ← List.map_reverse, List.reverse_reverse, List.map_map,
    List.map_congr_left hdigit, List.map_id, ofDigits_lowDigits]

theorem natAbs_toInt_lt (v : Word) : v.toInt.natAbs < 10 ^ 10 := by
  have hlo := BitVec.le_toInt v
  have hhi := BitVec.toInt_lt (x := v)
  omega

/-- R262: a minus sign if negative, and the decimal text of the magnitude. -/
theorem dec_eq (v : Word) :
    dec v = (if v.toInt < 0 then [0x2D] else []) ++ decimalText v.toInt.natAbs := by
  rw [dec, decDigits_eq (natAbs_toInt_lt v)]
  split_ifs <;> rfl

theorem sign_dec (v : Word) :
    Sign (if v.toInt < 0 then [0x2D] else []) (decide (v.toInt < 0)) := by
  split_ifs with h
  · exact .inr (.inr ⟨rfl, decide_eq_true h⟩)
  · exact .inl ⟨rfl, decide_eq_false h⟩

theorem parseInt_dec (v : Word) : parseInt (dec v) = some v := by
  refine parseInt_iff.2 ⟨_, _, _, sign_dec v, decimalText_ne_nil _, decimalText_digits _,
    dec_eq v, ?_⟩
  rw [signedValue, decimalValue_decimalText]
  split_ifs with h
  · have := of_decide_eq_true h
    omega
  · have := of_decide_eq_false (Bool.eq_false_iff.2 h)
    omega

theorem length_dec_le (v : Word) : (dec v).length ≤ 11 := by
  have hlen := lowDigits_length_le (natAbs_toInt_lt v)
  rw [dec_eq, List.length_append, decimalText, List.length_map, List.length_reverse]
  split_ifs
  · exact (Nat.add_comm ..).trans_le (Nat.succ_le_succ hlen)
  · exact (Nat.zero_add _).trans_le (hlen.trans (by decide))

end Sys2Proof.Machine

namespace Sys2Proof.Proofs

open Machine Claim

/-- Settles O38: `signedValue` is the value the statement writes out. -/
theorem integerLiteralsExactly : Obligations.IntegerLiteralsExactly :=
  fun _ _ => parseInt_iff

/-- Settles O40, from the decimal text of the magnitude. -/
theorem decimalTextIsCanonicalAndReadsBack : Obligations.DecimalTextIsCanonicalAndReadsBack := by
  refine fun v => ⟨?_, length_dec_le v, parseInt_dec v⟩
  rw [dec_eq, decimalText, lowDigits]
  have hzero : v.toInt.natAbs = 0 ↔ v = 0 := by
    rw [Int.natAbs_eq_zero, ← BitVec.toInt_inj]
    rfl
  simp only [hzero]
  split_ifs <;> rfl

end Sys2Proof.Proofs

/-! Float literals (`spec/47_syscall.md` R265): the parser follows the grammar part by part, and the
two short cuts of `decimalMag` (log entry 5) give what the exact computation gives. -/

namespace Sys2Proof.Machine

open Claim

/-! ### The exponent part -/

theorem parseExponent_cons (c : Byte) (t : Text) :
    parseExponent (c :: t) =
      if c = 0x65 ∨ c = 0x45 then
        if isDigits (takeSign t).2 then some (signedValue (takeSign t).1 (takeSign t).2) else none
      else none := by
  rw [signedValue, ← digitsVal_eq]
  rfl

/-- R265: the exponent parser accepts the exponent parts, with their values, and nothing else. -/
theorem parseExponent_eq_some_iff {t : Text} {e : Int} :
    parseExponent t = some e ↔ ExponentPart t e := by
  constructor
  · intro h
    cases t with
    | nil => exact .inl ⟨rfl, (Option.some.inj h).symm⟩
    | cons c t =>
      rw [parseExponent_cons, Option.ite_none_right_eq_some, Option.ite_none_right_eq_some] at h
      obtain ⟨hc, hdigits, he⟩ := h
      obtain ⟨hne, hdigits⟩ := isDigits_iff.1 hdigits
      obtain ⟨sgn, hsgn, ht⟩ := exists_sign t
      exact .inr ⟨c, sgn, _, _, hc, hsgn, hne, hdigits, congrArg (c :: ·) ht,
        (Option.some.inj he).symm⟩
  · rintro (⟨rfl, rfl⟩ | ⟨c, sgn, ds, neg, hc, hsgn, hne, hdigits, rfl, rfl⟩)
    · rfl
    · rw [parseExponent_cons, if_pos hc, takeSign_append hsgn (head?_ne_sign_of_digits hdigits),
        if_pos (isDigits_iff.2 ⟨hne, hdigits⟩)]
      rfl

/-- An exponent part begins with its letter, so it continues no run of digits and is no point. -/
theorem head?_exponentPart {ex : Text} {e : Int} (h : ExponentPart ex e) {c : Byte}
    (hc : ex.head? = some c) : isDigit c = false ∧ c ≠ 0x2E := by
  rcases h with ⟨rfl, _⟩ | ⟨c', _, _, _, hletter, _, _, _, rfl, _⟩
  · cases hc
  · cases hc
    rcases hletter with rfl | rfl <;> decide

/-! ### The fraction part -/

/-- The grammar `(\.D*)?` of R265: the point, if there is one, with the digits after it. -/
def FractionPart (point fp : Text) : Prop :=
  ((point = [] ∧ fp = []) ∨ point = [0x2E]) ∧ ∀ d ∈ fp, Digit d

theorem takeFraction_cons (c : Byte) (t : Text) :
    takeFraction (c :: t) =
      if c = 0x2E then (t.takeWhile isDigit, t.dropWhile isDigit) else ([], c :: t) := rfl

theorem takeFraction_append {point fp ex : Text} {e : Int} (h : FractionPart point fp)
    (hex : ExponentPart ex e) : takeFraction (point ++ (fp ++ ex)) = (fp, ex) := by
  have hhead (c : Byte) (hc : ex.head? = some c) := head?_exponentPart hex hc
  obtain ⟨⟨rfl, rfl⟩ | rfl, hdigits⟩ := h
  · cases ex with
    | nil => rfl
    | cons c ex => rw [List.nil_append, List.nil_append, takeFraction_cons, if_neg (hhead c rfl).2]
  · have hfp (d : Byte) (hd : d ∈ fp) : isDigit d = true := isDigit_iff.2 (hdigits d hd)
    have hend (c : Byte) (hc : ex.head? = some c) : isDigit c = false := (hhead c hc).1
    rw [List.singleton_append, takeFraction_cons, if_pos rfl, takeWhile_run_append hfp hend,
      dropWhile_run_append hfp hend]

/-- Whatever follows the integer part is what its fraction part and the rest of it spell. -/
theorem exists_fractionPart (t : Text) : ∃ point, FractionPart point (takeFraction t).1 ∧
    t = point ++ ((takeFraction t).1 ++ (takeFraction t).2) := by
  have hnone : FractionPart [] [] := ⟨.inl ⟨rfl, rfl⟩, by simp⟩
  cases t with
  | nil => exact ⟨[], hnone, rfl⟩
  | cons c t =>
    rw [takeFraction_cons]
    split_ifs with hpoint
    · refine ⟨[0x2E], ⟨.inr rfl, fun d hd => isDigit_iff.1 (List.mem_takeWhile_imp hd)⟩, ?_⟩
      rw [hpoint, List.takeWhile_append_dropWhile]
      rfl
    · exact ⟨[], hnone, rfl⟩

/-! ### The whole literal -/

section Literal
variable {ip fp point ex : Text} {k : Int}

/-- The integer part ends where the fraction part or the exponent part begins. -/
theorem head?_after_integerPart (hfrac : FractionPart point fp) (hex : ExponentPart ex k) {c : Byte}
    (hc : (point ++ (fp ++ ex)).head? = some c) : isDigit c = false := by
  obtain ⟨⟨rfl, rfl⟩ | rfl, _⟩ := hfrac
  · exact (head?_exponentPart hex hc).1
  · cases hc
    decide

/-- What follows the sign begins with a digit or with the point. -/
theorem head?_after_sign (hip : ∀ d ∈ ip, Digit d) (hfrac : FractionPart point fp)
    (hne : ip ≠ [] ∨ fp ≠ []) {c : Byte}
    (hc : (ip ++ (point ++ (fp ++ ex))).head? = some c) : c ≠ 0x2D ∧ c ≠ 0x2B := by
  cases ip with
  | cons d ip =>
    cases hc
    exact ne_sign_of_digit (hip c List.mem_cons_self)
  | nil =>
    obtain ⟨⟨_, hnil⟩ | rfl, _⟩ := hfrac
    · simp [hnil] at hne
    · cases hc
      decide

end Literal

/-- The parser, with the parts of the token named. -/
theorem parseFloat_eq_of_parts {t body ip fp after rest : Text} {neg : Bool}
    (hsign : takeSign t = (neg, body)) (hip : body.takeWhile isDigit = ip)
    (hafter : body.dropWhile isDigit = after) (hfrac : takeFraction after = (fp, rest)) :
    parseFloat t = if ip ++ fp = [] then none else (parseExponent rest).map fun e =>
      pack neg (decimalMag (ip ++ fp).length (decimalValue (ip ++ fp)) (e - fp.length)) := by
  simp only [parseFloat, hsign, hip, hafter, hfrac, digitsVal_eq]

theorem decimalValue_lt {ds : Text} (h : ∀ d ∈ ds, Digit d) : decimalValue ds < 10 ^ ds.length := by
  have hlt : ∀ d ∈ ds.reverse.map fun c => c.toNat - 0x30, d < 10 := by
    intro d hd
    obtain ⟨c, hc, rfl⟩ := List.mem_map.1 hd
    have hdigit := h c (List.mem_reverse.1 hc)
    rw [Digit] at hdigit
    omega
  have hvalue := Nat.ofDigits_lt_base_pow_length (by decide) hlt
  rwa [List.length_map, List.length_reverse] at hvalue

/-- A literal is parsed to its sign and the magnitude of its digits and exponent. -/
theorem parseFloat_of_floatLiteral {t : Text} {neg : Bool} {m : Nat} {e : Int}
    (h : FloatLiteral t neg m e) :
    ∃ n, m < 10 ^ n ∧ parseFloat t = some (pack neg (decimalMag n m e)) := by
  obtain ⟨sgn, ip, fp, point, ex, k, hsgn, hip, hfp, hne, hpoint, hex, rfl, rfl, rfl⟩ := h
  have hfrac : FractionPart point fp := ⟨hpoint, hfp⟩
  have hrun (d : Byte) (hd : d ∈ ip) : isDigit d = true := isDigit_iff.2 (hip d hd)
  have hend (c : Byte) (hc : (point ++ (fp ++ ex)).head? = some c) : isDigit c = false :=
    head?_after_integerPart hfrac hex hc
  have hparts := parseFloat_eq_of_parts
    (takeSign_append hsgn fun c hc => head?_after_sign hip hfrac hne hc)
    (takeWhile_run_append hrun hend) (dropWhile_run_append hrun hend)
    (takeFraction_append hfrac hex)
  have hdigits : ip ++ fp ≠ [] := by rwa [ne_eq, List.append_eq_nil_iff, not_and_or]
  have hall (d : Byte) (hd : d ∈ ip ++ fp) : Digit d := (List.mem_append.1 hd).elim (hip d) (hfp d)
  rw [if_neg hdigits, parseExponent_eq_some_iff.2 hex] at hparts
  exact ⟨_, decimalValue_lt hall, hparts⟩

/-- Whatever is parsed is a literal. -/
theorem floatLiteral_of_parseFloat {t : Text} {v : Word} (h : parseFloat t = some v) :
    ∃ neg m e, FloatLiteral t neg m e := by
  obtain ⟨sgn, hsgn, ht⟩ := exists_sign t
  rcases hsign : takeSign t with ⟨neg, body⟩
  rw [hsign] at hsgn ht
  obtain ⟨point, ⟨hpoint, hfp⟩, hafter⟩ := exists_fractionPart (body.dropWhile isDigit)
  rcases hfrac : takeFraction (body.dropWhile isDigit) with ⟨fp, rest⟩
  rw [hfrac] at hpoint hfp hafter
  rw [parseFloat_eq_of_parts hsign rfl rfl hfrac, Option.ite_none_left_eq_some,
    Option.map_eq_some_iff] at h
  obtain ⟨hne, k, hk, _⟩ := h
  refine ⟨neg, _, _, sgn, body.takeWhile isDigit, fp, point, rest, k, hsgn,
    fun d hd => isDigit_iff.1 (List.mem_takeWhile_imp hd), hfp, ?_, hpoint,
    parseExponent_eq_some_iff.1 hk, ?_, rfl, rfl⟩
  · rwa [List.append_eq_nil_iff, not_and_or] at hne
  · rw [← hafter, List.takeWhile_append_dropWhile, ht]

/-! ### The value of the literal -/

/-- A value below half a unit rounds to zero. -/
theorem roundMag_of_lt_half {num den : Nat} (h : 2 * num < den) : roundMag num den = 0 := by
  have hdiv : num / den = 0 := Nat.div_eq_of_lt (by omega)
  have hmod : num % den = num := Nat.mod_eq_of_lt (by omega)
  simp [roundMag, hdiv, hmod, h]

/-- Log entry 5: from 10^39 up every value that is not zero overflows. -/
theorem decimalMagExact_of_large {m : Nat} {e : Int} (hm : m ≠ 0) (he : 39 ≤ e) :
    decimalMagExact m e = infMag := by
  rw [decimalMagExact, if_pos (by omega)]
  refine roundMag_overflow Nat.one_pos ?_
  have hpow : 10 ^ 39 ≤ m * 10 ^ e.toNat :=
    (Nat.pow_le_pow_right (by decide) (by omega)).trans
      (Nat.le_mul_of_pos_left _ (Nat.pos_of_ne_zero hm))
  have hcast : (10 ^ 39 : ℚ) ≤ m * 10 ^ e.toNat := mod_cast hpow
  calc overflowUnits
    _ ≤ 10 ^ 39 * 2 ^ 149 := by norm_num [overflowUnits]
    _ ≤ (m * 10 ^ e.toNat) * 2 ^ 149 := by gcongr
    _ = ((m * 10 ^ e.toNat * 2 ^ 149 : ℕ) : ℚ) / (1 : ℕ) := by
      simp only [Nat.cast_mul, Nat.cast_pow, Nat.cast_ofNat, Nat.cast_one, div_one]

/-- Log entry 5: a value below 10^-46 is below half a unit. -/
theorem decimalMagExact_of_small {n m : Nat} {e : Int} (hm : m < 10 ^ n) (he : n + e ≤ -46) :
    decimalMagExact m e = 0 := by
  rw [decimalMagExact, if_neg (by omega)]
  refine roundMag_of_lt_half ?_
  calc 2 * (m * 2 ^ 149)
    _ = m * 2 ^ 150 := by ring
    _ < 10 ^ n * 2 ^ 150 := Nat.mul_lt_mul_of_pos_right hm (by positivity)
    _ ≤ 10 ^ n * 10 ^ 46 := Nat.mul_le_mul_left _ (by norm_num)
    _ = 10 ^ (n + 46) := (pow_add ..).symm
    _ ≤ 10 ^ (-e).toNat := Nat.pow_le_pow_right (by decide) (by omega)

/-- The two short cuts of log entry 5 give what the exact computation gives. -/
theorem decimalMag_eq_exact {n m : Nat} {e : Int} (hm : m < 10 ^ n) :
    decimalMag n m e = decimalMagExact m e := by
  unfold decimalMag
  split_ifs with hzero hlarge hsmall
  · simp [decimalMagExact, hzero]
  · exact (decimalMagExact_of_large hzero hlarge).symm
  · exact (decimalMagExact_of_small hm hsmall).symm
  · rfl

theorem decimalMagExact_lt (m : Nat) (e : Int) : decimalMagExact m e < 2 ^ 31 := by
  unfold decimalMagExact
  split_ifs <;> exact roundMag_lt ..

/-- The exact computation rounds `m * 10^e` once, under either sign. -/
theorem roundsTo_decimalMagExact (neg : Bool) (m : Nat) (e : Int) :
    RoundsTo (signFactor neg * m * (10 : ℚ) ^ e) (pack neg (decimalMagExact m e)) := by
  unfold decimalMagExact
  split_ifs with he
  · obtain ⟨d, rfl⟩ := Int.eq_ofNat_of_zero_le he
    refine roundsTo_pack Nat.one_pos ?_
    rw [Int.toNat_natCast, zpow_natCast]
    simp only [Nat.cast_mul, Nat.cast_pow, Nat.cast_ofNat, Nat.cast_one]
    field_simp
  · obtain ⟨d, hd⟩ := Int.eq_ofNat_of_zero_le (show 0 ≤ -e by omega)
    obtain rfl : e = -(d : Int) := by omega
    refine roundsTo_pack (by positivity) ?_
    rw [neg_neg, Int.toNat_natCast, zpow_neg, zpow_natCast]
    simp only [Nat.cast_mul, Nat.cast_pow, Nat.cast_ofNat]
    field_simp

end Sys2Proof.Machine

namespace Sys2Proof.Proofs

open Machine Claim

/-- Settles O39: the parser and the grammar accept the same tokens, and the magnitude it packs is
the exact value rounded once. -/
theorem floatLiteralsAreCorrectlyRounded : Obligations.FloatLiteralsAreCorrectlyRounded := by
  refine ⟨fun t neg m e h => ?_, fun t hnone => ?_⟩
  · obtain ⟨n, hm, hparse⟩ := parseFloat_of_floatLiteral h
    rw [decimalMag_eq_exact hm] at hparse
    exact ⟨_, hparse, signOf_pack neg (decimalMagExact_lt m e), roundsTo_decimalMagExact neg m e⟩
  · exact Option.eq_none_iff_forall_ne_some.2 fun v hv => hnone (floatLiteral_of_parseFloat hv)

end Sys2Proof.Proofs

/-! The register faults of the handlers (`spec/60_exceptions.md` R282, R292): which fields are checked
as register indices, and that no other check raises `OperandOutOfRange`. -/

namespace Sys2Proof.Machine

open Claim

/-- `t` is Faulted with `OperandOutOfRange` (R282). -/
def RegisterFault (t : State) : Prop :=
  t.run = .faulted ∧ t.fr.kind = some .operandOutOfRange

/-- Some field that `i` uses as a register index is outside 0 to 31. -/
def HasBadRegister (i : Instr) : Prop := ∃ o ∈ regFields i, BadIndex 32 o

section Shapes
variable {i : Instr} {s t : State}

theorem registerFault_raise : RegisterFault (s.raise .operandOutOfRange i) := ⟨rfl, rfl⟩

theorem not_registerFault_raise {k : FaultKind} (hk : k ≠ .operandOutOfRange) :
    ¬ RegisterFault (s.raise k i) :=
  fun ⟨_, hkind⟩ => hk (Option.some.inj hkind)

/-- A state that is as little Faulted as `s`. -/
theorem not_registerFault_of_run (hs : s.run ≠ .faulted) (h : t.run = s.run) : ¬ RegisterFault t :=
  fun ⟨hrun, _⟩ => hs (h ▸ hrun)

/-- The faults left to an instruction whose operands are in range are none of registers. -/
theorem FaultAllowed.not_registerFault (h : FaultAllowed i t) : ¬ RegisterFault t := by
  rintro ⟨hrun, hkind⟩
  obtain ⟨k, hk, hallowed⟩ := h hrun
  cases hk.symm.trans hkind
  exact hallowed

/-- An instruction without register fields, R282. -/
theorem registerFault_iff_of_regFields_nil (hi : regFields i = []) (h : ¬ RegisterFault t) :
    RegisterFault t ↔ HasBadRegister i :=
  iff_of_false h (by simp [HasBadRegister, hi])

theorem registerFault_withReg_iff {o : Word} {body : Fin 32 → State} (hi : regFields i = [o])
    (h : ∀ r, ¬ RegisterFault (body r)) :
    RegisterFault (withReg i o s body) ↔ HasBadRegister i := by
  have hbad : HasBadRegister i ↔ reg? o = none := by
    simp [HasBadRegister, hi, BadIndex, reg?_eq_none_iff]
  rw [hbad]
  rcases withReg_cases i o s body with ⟨r, hr, e⟩ | ⟨hnone, e⟩ <;> rw [e]
  · exact iff_of_false (h r) (by simp [hr])
  · exact iff_of_true registerFault_raise hnone

theorem registerFault_withRegs3_iff {o1 o2 o3 : Word} {body : Fin 32 → Fin 32 → Fin 32 → State}
    (hi : regFields i = [o1, o2, o3]) (h : ∀ d a b, ¬ RegisterFault (body d a b)) :
    RegisterFault (withRegs3 i o1 o2 o3 s body) ↔ HasBadRegister i := by
  have hbad : HasBadRegister i ↔ reg? o1 = none ∨ reg? o2 = none ∨ reg? o3 = none := by
    simp [HasBadRegister, hi, BadIndex, reg?_eq_none_iff]
  rw [hbad]
  rcases withRegs3_cases i o1 o2 o3 s body with ⟨d, a, b, hd, ha, hb, e⟩ | ⟨hnone, e⟩ <;> rw [e]
  · exact iff_of_false (h d a b) (by simp [hd, ha, hb])
  · exact iff_of_true registerFault_raise hnone

/-- A bad address is a fault of another kind (R284), and the register is checked before it. -/
theorem registerFault_withRegCell_iff {o addr : Word}
    {body : Fin 32 → Fin Config.dataCapacity → State} (hi : regFields i = [o])
    (h : ∀ r a, ¬ RegisterFault (body r a)) :
    RegisterFault (withRegCell i o addr s body) ↔ HasBadRegister i :=
  registerFault_withReg_iff hi fun r => by
    split
    next a _ => exact h r a
    next => exact not_registerFault_raise (by decide)

/-- A bad slot number is a fault of another kind (R285). -/
theorem not_registerFault_withSlot {o : Word} {body : Text → State}
    (h : ∀ w, ¬ RegisterFault (body w)) : ¬ RegisterFault (withSlot i o s body) := by
  rcases withSlot_cases i o s body with ⟨w, _, e⟩ | ⟨_, e⟩ <;> rw [e]
  · exact h w
  · exact not_registerFault_raise (by decide)

theorem registerFault_withRegSlots_iff {o1 o2 o3 : Word} {body : Fin 32 → Text → Text → State}
    (hi : regFields i = [o1]) (h : ∀ d w u, ¬ RegisterFault (body d w u)) :
    RegisterFault (withRegSlots i o1 o2 o3 s body) ↔ HasBadRegister i :=
  registerFault_withReg_iff hi fun d => not_registerFault_withSlot fun w =>
    not_registerFault_withSlot fun u => h d w u

theorem registerFault_branchOn_iff (hs : s.run ≠ .faulted) {o : Word} (hi : regFields i = [o])
    (sense : Bool) (off : Word) :
    RegisterFault (branchOn sense i o off s) ↔ HasBadRegister i :=
  registerFault_withReg_iff hi fun r => by
    split
    · exact not_registerFault_raise (by decide)
    · split
      · exact not_registerFault_of_run hs rfl
      · exact not_registerFault_of_run hs rfl

theorem not_registerFault_sstr (hs : s.run ≠ .faulted) {k u2 u3 : Word}
    (h : execSstr k u2 u3 s = .next t) : ¬ RegisterFault t := by
  cases next_inj h
  split
  · exact not_registerFault_raise (by decide)
  · refine not_registerFault_withSlot fun _ => ?_
    split
    · exact not_registerFault_raise (by decide)
    · exact not_registerFault_of_run hs rfl

/-- The six services of a register check it, and the two of a slot check no register. -/
theorem registerFault_runService_iff (hs : s.run ≠ .faulted) (v : Service) (x u3 : Word) :
    RegisterFault (runService (.call v.number x u3) x s v) ↔
      HasBadRegister (.call v.number x u3) := by
  cases v with
  | readInt | readFloat | readBool =>
    refine registerFault_withReg_iff rfl fun r =>
      (faultAllowed_readService hs ?_ ?_).not_registerFault
    all_goals
      intro w u k h
      split at h <;> cases h
    · rfl
    · trivial
  | readString =>
    refine registerFault_iff_of_regFields_nil rfl <| not_registerFault_withSlot fun _ =>
      (faultAllowed_readService hs ?_ ?_).not_registerFault
    all_goals
      intro w u k h
      split at h <;> cases h
    · rfl
    · trivial
  | writeInt | writeFloat =>
    exact registerFault_withReg_iff rfl fun _ => not_registerFault_of_run hs rfl
  | writeBool =>
    refine registerFault_withReg_iff rfl fun r => ?_
    split
    · exact not_registerFault_of_run hs rfl
    · exact not_registerFault_raise (by decide)
  | writeString =>
    exact registerFault_iff_of_regFields_nil rfl <| not_registerFault_withSlot fun _ =>
      not_registerFault_of_run hs rfl

/-- R292: a bad service code is the fault, whatever the operand is. -/
theorem not_registerFault_of_badCode (hcode : BadCode i) (h : exec i s = .next t) :
    ¬ RegisterFault t := by
  cases i with
  | call code x u3 =>
    cases next_inj ((exec_call_of_badCode hcode x u3 s).symm.trans h)
    exact not_registerFault_raise (by decide)
  | _ => exact hcode.elim

/-- What every handler does with its register fields. -/
theorem exec_registerFault_iff (hcode : ¬ BadCode i) (hs : s.run ≠ .faulted)
    (h : exec i s = .next t) : RegisterFault t ↔ HasBadRegister i := by
  cases i with
  | halt u1 u2 u3 =>
    cases next_inj h
    exact registerFault_iff_of_regFields_nil rfl fun ⟨hrun, _⟩ => by cases hrun
  | noop u1 u2 u3 | jump addr u2 u3 =>
    cases next_inj h
    exact registerFault_iff_of_regFields_nil rfl (not_registerFault_of_run hs rfl)
  | addi d a b | subi d a b | muli d a b | equi d a b | neqi d a b | lthi d a b | ltei d a b
  | gthi d a b | gtei d a b | equf d a b | neqf d a b | lthf d a b | ltef d a b | gthf d a b
  | gtef d a b =>
    cases next_inj h
    exact registerFault_withRegs3_iff rfl fun _ _ _ => not_registerFault_of_run hs rfl
  | divi d a b | modi d a b =>
    cases next_inj h
    refine registerFault_withRegs3_iff rfl fun _ _ _ => ?_
    split
    · exact not_registerFault_raise (by decide)
    · exact not_registerFault_of_run hs rfl
  | addf d a b | subf d a b | mulf d a b | divf d a b | modf d a b =>
    cases next_inj h
    exact registerFault_withRegs3_iff rfl fun _ _ _ =>
      not_registerFault_of_run hs (State.writeFloat_run ..)
  | equs d j k | neqs d j k | lths d j k | ltes d j k | gths d j k | gtes d j k =>
    cases next_inj h
    exact registerFault_withRegSlots_iff rfl fun _ _ _ => not_registerFault_of_run hs rfl
  | botb r off u3 | bofb r off u3 =>
    cases next_inj h
    exact registerFault_branchOn_iff hs rfl _ _
  | ldwi d addr u3 | ldwf d addr u3 | stwi addr r u3 | stwf addr r u3 =>
    cases next_inj h
    exact registerFault_withRegCell_iff rfl fun _ _ => not_registerFault_of_run hs rfl
  | ldii d c u3 | ldif d c u3 =>
    cases next_inj h
    exact registerFault_withReg_iff rfl fun _ => not_registerFault_of_run hs rfl
  | sstr k u2 u3 => exact registerFault_iff_of_regFields_nil rfl (not_registerFault_sstr hs h)
  | call code x u3 =>
    cases next_inj h
    split
    next hnone => exact absurd (service?_eq_none_iff.1 hnone) hcode
    next v hv =>
      rw [eq_number_of_service? hv]
      exact registerFault_runService_iff hs v x u3

end Shapes

end Sys2Proof.Machine

namespace Sys2Proof.Proofs

open Machine Claim

/-- Settles O58: a bad service code is a fault of another kind (R292), and with no bad code the
handler checks the register fields of the instruction and no others. -/
theorem operandOutOfRangeExactly : Obligations.OperandOutOfRangeExactly := by
  intro i s t hs h
  by_cases hcode : BadCode i
  · exact iff_of_false (not_registerFault_of_badCode hcode h) fun ⟨hgood, _⟩ => hgood hcode
  · exact (exec_registerFault_iff hcode hs h).trans (and_iff_right hcode).symm

/-- Settles O6: a fetch outside the memory yields no word, and the step is the fault entry. -/
theorem fetchOutsideMemoryFaults : Obligations.FetchOutsideMemoryFaults :=
  fun s hr hpc => ⟨_, step_of_badIndex_pc hr hpc, entersFault_takeFault s 0 _ none⟩

end Sys2Proof.Proofs
